-- ==== Sys2Proof/Word.lean ====
section
/-!
DEFINITION. The values of the block: unsigned bytes, 16-bit and 32-bit words (00_scope.md R6, R7).
-/

namespace Sys2Proof

/-- A `u8` of R6. -/
abbrev Byte := BitVec 8

/-- A `u16` of R6. -/
abbrev Half := BitVec 16

/-- A 32-bit register: `pos`, `ASSET_LEN` and the words of the register port. -/
abbrev Word := BitVec 32

/-- `ceil_div(a, b)` of R7, for `b > 0`. -/
def ceilDiv (a b : Nat) : Nat := (a + b - 1) / b

end Sys2Proof
end

