-- ==== Sys2Proof/Syntax.lean ====
section
/-!
DEFINITION. The instructions: one constructor per row of spec/opcode_table.json (30_encoding.md).
A record constructor carries the operands of the record's fixed part; the compressed body of FULL
and DELTA is a sequence of token instructions, read from the asset as the record runs (R44, R48).
-/

namespace Sys2Proof

/-- The stream ISA: four records (R42 to R46), the six rows of illegal opcodes (R51) and the two
token forms of a compressed body (R47). -/
inductive Instr where
  /-- `00 bw bh fw fh` (R43). -/
  | init (bw bh fw fh : Byte)
  /-- `01`, then the tokens of its body (R44). -/
  | full
  /-- `02` (R45). -/
  | nop
  /-- `03 len_lo len_hi`, then the tokens of its body (R46). -/
  | delta (len : Half)
  /-- An opcode in 0x04..0x07; the operand is the opcode byte itself (R72). -/
  | illegal04 (op : Byte)
  /-- An opcode in 0x08..0x0F. -/
  | illegal08 (op : Byte)
  /-- An opcode in 0x10..0x1F. -/
  | illegal10 (op : Byte)
  /-- An opcode in 0x20..0x3F. -/
  | illegal20 (op : Byte)
  /-- An opcode in 0x40..0x7F. -/
  | illegal40 (op : Byte)
  /-- An opcode in 0x80..0xFF. -/
  | illegal80 (op : Byte)
  /-- `b` at a token position: one copy of `b` (R61). -/
  | lit (b : Byte)
  /-- `b b n` at a token position: `1 + n` copies of `b` (R62). -/
  | run (b n : Byte)
deriving DecidableEq, Repr

/-- A token of a compressed body (R47). -/
inductive Token where
  | lit (b : Byte)
  | run (b n : Byte)
deriving DecidableEq, Repr

/-- The instruction a token is. -/
def Token.instr : Token → Instr
  | .lit b => .lit b
  | .run b n => .run b n

/-- The bytes a token expands to (R47): one copy for LIT, `1 + n` for RUN. -/
def Token.expand : Token → List Byte
  | .lit b => [b]
  | .run b n => List.replicate (1 + n.toNat) b

/-- Records stand at record positions, tokens at token positions (R47). -/
def Instr.isRecord : Instr → Bool
  | .init _ _ _ _ => true
  | .full => true
  | .nop => true
  | .delta _ => true
  | .illegal04 _ => true
  | .illegal08 _ => true
  | .illegal10 _ => true
  | .illegal20 _ => true
  | .illegal40 _ => true
  | .illegal80 _ => true
  | .lit _ => false
  | .run _ _ => false

end Sys2Proof
end

