-- ==== Sys2Proof/WellFormed.lean ====
section
/-!
DEFINITION. Which terms of `Instr` are instructions: every operand of every record and token is
encodable at every value (R43, R46, R51), so only the illegal rows carry a check.
-/

namespace Sys2Proof

/-- The opcode byte lies in the row that `mask` and `pattern` of the opcode table describe. -/
def inRow (mask pattern op : Byte) : Bool := op &&& mask == pattern

/-- An instruction is well-formed when its opcode byte belongs to its row of the opcode table. -/
def Instr.wellFormed : Instr → Bool
  | .init _ _ _ _ => true
  | .full => true
  | .nop => true
  | .delta _ => true
  | .illegal04 op => inRow 0xFC 0x04 op
  | .illegal08 op => inRow 0xF8 0x08 op
  | .illegal10 op => inRow 0xF0 0x10 op
  | .illegal20 op => inRow 0xE0 0x20 op
  | .illegal40 op => inRow 0xC0 0x40 op
  | .illegal80 op => inRow 0x80 0x80 op
  | .lit _ => true
  | .run _ _ => true

end Sys2Proof
end

