-- ==== Sys2Proof/Decode.lean ====
section
/-!
DEFINITION. The decoder, total on any bytes, and after it the encoder (30_encoding.md R41 to R52).
-/

namespace Sys2Proof

/-- `{hi, lo}` of R6: the u16 whose low byte stands at the lower address (R28, R46).
PRESUMED by the spec itself, "from general knowledge" (assumption 8). -/
def u16le (lo hi : Byte) : Half := hi ++ lo

/-- Bits 7:0 of a u16 (R46). -/
def lowByte (h : Half) : Byte := h.extractLsb' 0 8

/-- Bits 15:8 of a u16 (R46). -/
def highByte (h : Half) : Byte := h.extractLsb' 8 8

/-- What the opcode byte tells (R42, R52): INIT has four operand bytes, DELTA a u16; every other
opcode byte is the whole fixed part of its record. -/
inductive Head where
  | init
  | delta
  | whole (i : Instr)
deriving DecidableEq, Repr

/-- The opcode map (R42, R51): all eight bits of byte 0 select the record. -/
def decodeHead (op : Byte) : Head :=
  if op = 0x00 then .init
  else if op = 0x01 then .whole .full
  else if op = 0x02 then .whole .nop
  else if op = 0x03 then .delta
  else if inRow 0xFC 0x04 op then .whole (.illegal04 op)
  else if inRow 0xF8 0x08 op then .whole (.illegal08 op)
  else if inRow 0xF0 0x10 op then .whole (.illegal10 op)
  else if inRow 0xE0 0x20 op then .whole (.illegal20 op)
  else if inRow 0xC0 0x40 op then .whole (.illegal40 op)
  else .whole (.illegal80 op)

/-- Why the bytes hold no instruction. Every byte value is some opcode or some token, so the only
grounds are bytes that end too soon. -/
inductive DecodeError where
  /-- No byte at all. -/
  | noByte
  /-- The asset ends inside the operands of an INIT (R70). -/
  | initCutShort
  /-- The asset ends inside the length of a DELTA (R58). -/
  | deltaCutShort
  /-- The asset ends before the count byte of a RUN (R62). -/
  | runCutShort
deriving DecidableEq, Repr

/-- What the decoder answers: an instruction with the bytes after it, or a rejection by name. -/
inductive Decoded where
  | instr (i : Instr) (rest : List Byte)
  | rejected (e : DecodeError)
deriving DecidableEq, Repr

/-- The instruction read, if there is one. -/
def Decoded.instr? : Decoded → Option Instr
  | .instr i _ => some i
  | .rejected _ => none

/-- The four operand bytes of INIT, in the order of R43. -/
def decodeInit : List Byte → Decoded
  | bw :: bh :: fw :: fh :: rest => .instr (.init bw bh fw fh) rest
  | _ => .rejected .initCutShort

/-- The length of DELTA, low byte first (R46). -/
def decodeDelta : List Byte → Decoded
  | lo :: hi :: rest => .instr (.delta (u16le lo hi)) rest
  | _ => .rejected .deltaCutShort

/-- The record at the head of `bytes` (R41, R42). -/
def decode : List Byte → Decoded
  | [] => .rejected .noByte
  | op :: rest =>
    match decodeHead op with
    | .init => decodeInit rest
    | .delta => decodeDelta rest
    | .whole i => .instr i rest

/-- The token at the head of `bytes`, at a token position of a FULL or DELTA body (R47, R64). -/
def decodeToken : List Byte → Decoded
  | [] => .rejected .noByte
  | [b] => .instr (.lit b) []
  | b :: c :: rest =>
    if c = b then
      match rest with
      | [] => .rejected .runCutShort
      | n :: rest' => .instr (.run b n) rest'
    else .instr (.lit b) (c :: rest)

/-! The encoder, written from the formats R43 to R47. -/

/-- The bytes of an instruction: of a record its fixed part, after which the tokens of its body
follow as instructions of their own. -/
def encode : Instr → List Byte
  | .init bw bh fw fh => [0x00, bw, bh, fw, fh]
  | .full => [0x01]
  | .nop => [0x02]
  | .delta len => [0x03, lowByte len, highByte len]
  | .illegal04 op => [op]
  | .illegal08 op => [op]
  | .illegal10 op => [op]
  | .illegal20 op => [op]
  | .illegal40 op => [op]
  | .illegal80 op => [op]
  | .lit b => [b]
  | .run b n => [b, b, n]

/-- The bytes of a compressed body (R48). -/
def encodeTokens : List Token → List Byte
  | [] => []
  | t :: ts => encode t.instr ++ encodeTokens ts

/-- The bytes a compressed body expands to (R47). -/
def expandTokens : List Token → List Byte
  | [] => []
  | t :: ts => t.expand ++ expandTokens ts

/-- The longest fixed part of a record, INIT's (R52). -/
def maxFixedBytes : Nat := 5

/-- The bytes of an opcode-table word: byte `k` is bits `8k+7..8k` of `w`; every bit at or above
`nbits` is 0. -/
def tableBytes (nbits w : Nat) : List Byte :=
  (List.range maxFixedBytes).map fun k => BitVec.ofNat 8 ((w % 2 ^ nbits) / 2 ^ (8 * k))

/-- The record the decoder reads from an opcode-table word. A word of the rows LIT and RUN is read
as what those bytes are at a record position (DESIGN CHOICE, assumption 7). -/
def decodeTableWord (nbits w : Nat) : Option Instr := (decode (tableBytes nbits w)).instr?

end Sys2Proof
end

