-- ==== Sys2Proof/Config.lean ====
section
/-!
DEFINITION. The size parameters of the block (00_scope.md R5) and the values the spec leaves open.
-/

namespace Sys2Proof

/-- The OPEN size parameters of R5. They are fixed before the launch and never change (R110, R115). -/
structure Config where
  /-- `FB_STRIDE`, bytes per framebuffer page. -/
  fbStride : Nat
  /-- `FB_PAGES`, pages of eight pixel rows. -/
  fbPages : Nat
  /-- `SCRATCH_BYTES`, capacity of the decompression buffer. -/
  scratchBytes : Nat
deriving DecidableEq, Repr

/-- `FB_BYTES` of R5. -/
def Config.fbBytes (c : Config) : Nat := c.fbStride * c.fbPages

/-- The ranges R5 gives the parameters. -/
def Config.legal (c : Config) : Bool :=
  decide (1 ≤ c.fbStride) && decide (c.fbStride ≤ 256) &&
  decide (1 ≤ c.fbPages) && decide (c.fbPages ≤ 32) && decide (c.scratchBytes ≤ 65535)

/-- The reference values of R5. DESIGN CHOICE (assumption 1): `State.reset` takes them. -/
def Config.reference : Config := { fbStride := 85, fbPages := 7, scratchBytes := 65535 }

/-- FREE VALUE (R113, assumption 3): what the host's `draw`-th port read gives when it is a register
read of number `n` made while `busy = 1`. No body: nothing can be proved about it. -/
opaque Config.busyRegRead : (draw n : Nat) → Word

/-- FREE VALUE (R113, assumption 3): what the host's `draw`-th port read gives when it is a display
read of byte `i` made while `busy = 1`. -/
opaque Config.busyFbRead : (draw i : Nat) → Byte

end Sys2Proof
end

