-- ==== Sys2Proof/Machine/State.lean ====
section
/-!
DEFINITION. The state of the block (10_state.md R10 to R22), its fault causes (60_exceptions.md R91)
and the state after reset (70_reset_and_hazards.md R108).
-/

namespace Sys2Proof.Machine

/-- Why the MODEL stops. The block's own faults (R91) never stop it: they are states (R92). -/
inductive Fault where
  /-- Raised by the meanings of LIT and RUN in a state whose body is complete or absent: no token
  stands there (R47, opcode table column "condition"), so the spec gives those bytes no meaning as a
  token. SAFE: no STEP reaches it (DESIGN CHOICE, assumption 7). -/
  | noTokenPosition
deriving DecidableEq, Repr

/-- What the MODEL declines. -/
inductive Refusal where
  /-- An instruction without a meaning yet; raised by `exec`'s refused arms (there are none). SAFE. -/
  | notModelled (mnemonic : String)
  /-- Raised by `step`: a STEP requested while `busy = 1` (R114). The spec gives the host no such
  move and the model has no transition. SAFE (DEDUCED, assumption 13). -/
  | stepWhileBusy
deriving DecidableEq, Repr

/-- The fault causes of R91. Codes 8 to 15 are reserved and never raised (DEDUCED,
assumption 18). -/
inductive Cause where
  | none
  | unrecognizedOpcode
  | readPastEnd
  | runOverrun
  | zeroBlockDim
  | bodyUnderrun
  | fbBounds
  | scratchOverflow
deriving DecidableEq, Repr

/-- What one STEP reports (R68, R103). -/
inductive StepResult where
  | ended
  | more
  | fault
deriving DecidableEq, Repr

/-- The working values of a STEP that the token instructions and the body bit cursor act on (R22).
They are idle at every state the host sees (DESIGN CHOICE, assumption 5). -/
structure Work where
  /-- `body_len`, the target length of the current body. -/
  bodyLen : Nat
  /-- `out`, the bytes inflate has produced. -/
  out : Nat
  /-- `idx`, the next bit of the body. -/
  idx : Nat
deriving DecidableEq, Repr

/-- No body in progress. -/
def Work.idle : Work := { bodyLen := 0, out := 0, idx := 0 }

/-- A byte space: its bytes other than 0x00, addresses strictly rising (see `Mem.wf`). -/
abbrev Mem := List Host.Cell

/-- The whole machine. -/
structure State where
  /-- The size parameters (R5), a constant of the launch. -/
  cfg : Config
  /-- `ASSET` (R27), a constant of the launch. -/
  asset : Mem
  /-- `ASSET_LEN` (R5), a constant of the launch. -/
  assetLen : Word
  /-- The cursor and program counter (R12, R13). -/
  pos : Word
  /-- `block_width` (R14). -/
  bw : Byte
  /-- `block_height` (R14). -/
  bh : Byte
  /-- `frame_width` (R14). -/
  fw : Byte
  /-- `frame_height` (R14). -/
  fh : Byte
  /-- `x_blocks` (R15). -/
  xb : Byte
  /-- `y_blocks` (R15). -/
  yb : Byte
  /-- READY rather than UNINITIALIZED (R16). -/
  geomValid : Bool
  /-- The permanent fault state, and the `fatal` output (R17, R93). -/
  faulted : Bool
  /-- The fault entered (R17, R91). -/
  cause : Cause
  /-- The last STEP returned MORE (R18). -/
  lastMore : Bool
  /-- The last opcode byte read (R18). -/
  lastOp : Byte
  /-- Some opcode byte has been read (R18). -/
  lastOpValid : Bool
  /-- A STEP is in progress (R19). -/
  busy : Bool
  /-- The framebuffer `FB` (R20). -/
  fb : Mem
  /-- The decompression buffer `Scratch` (R21). -/
  scratch : Mem
  /-- The working values of the STEP in progress (R22). -/
  work : Work
deriving DecidableEq, Repr

/-- The reset state of a launch (R108, R111): the host has fixed the configuration and the asset
(R110); every register is 0 and every framebuffer byte 0x00 (decision D12, assumption 14); the scratch buffer
holds what assumption 4 chooses. -/
def State.launch (cfg : Config) (asset : Mem) (assetLen : Word) : State :=
  { cfg := cfg, asset := asset, assetLen := assetLen, pos := 0,
    bw := 0, bh := 0, fw := 0, fh := 0, xb := 0, yb := 0, geomValid := false,
    faulted := false, cause := .none, lastMore := false, lastOp := 0, lastOpValid := false,
    busy := false, fb := [], scratch := [], work := Work.idle }

/-- The machine right after reset, in the reference configuration and with no asset provided yet
(DESIGN CHOICE, assumptions 1 and 2). -/
def State.reset : State := State.launch Config.reference [] 0

end Sys2Proof.Machine
end

