-- ==== Sys2Proof/Machine/Ops.lean ====
section
/-!
DEFINITION. The named operations over memory and registers: byte spaces (20_memory.md), the cursor
(40_bitstream_cursor.md), fault entry (60_exceptions.md R92), the scratch buffer and the framebuffer
(43_framebuffer.md).
-/

namespace Sys2Proof.Machine

/-! Byte spaces. -/

/-- What an unlisted address of a byte space reads as: 0x00, the framebuffer's reset value (R20).
For the scratch buffer, whose reset contents are unspecified and unobservable (R21), a DESIGN CHOICE
(assumption 4). -/
def Mem.unlisted : Byte := 0x00

/-- The byte at address `a`. -/
def Mem.read : Mem → Nat → Byte
  | [], _ => Mem.unlisted
  | (k, v) :: m, a => if k = a then v else Mem.read m a

/-- The space without any entry for address `a`. -/
def Mem.erase : Mem → Nat → Mem
  | [], _ => []
  | (k, w) :: m, a => if k = a then Mem.erase m a else (k, w) :: Mem.erase m a

/-- The space with an entry for address `a` placed before the first higher address. -/
def Mem.place : Mem → Nat → Byte → Mem
  | [], a, v => [(a, v)]
  | (k, w) :: m, a, v => if a < k then (a, v) :: (k, w) :: m else (k, w) :: Mem.place m a v

/-- The space with byte `a` written: writing what an unlisted address reads as removes the entry, so
the form stays canonical. -/
def Mem.write (m : Mem) (a : Nat) (v : Byte) : Mem :=
  if v = Mem.unlisted then m.erase a else (m.erase a).place a v

/-- `n` copies of `v` from address `a` up, in increasing order (R60). -/
def Mem.fill : Mem → Nat → Nat → Byte → Mem
  | m, _, 0, _ => m
  | m, a, n + 1, v => Mem.fill (Mem.write m a v) (a + 1) n v

/-- Every listed address is above `lo`. -/
def Mem.above (lo : Nat) : Mem → Bool
  | [] => true
  | (k, _) :: m => decide (lo < k) && Mem.above lo m

/-- The canonical form: addresses strictly rising, no entry equal to what an unlisted address reads
as. -/
def Mem.wf : Mem → Bool
  | [] => true
  | (k, v) :: m => (v != Mem.unlisted) && Mem.above k m && Mem.wf m

/-- Every listed address is below `hi`, the size of the space (R26). -/
def Mem.below (hi : Nat) : Mem → Bool
  | [] => true
  | (k, _) :: m => decide (k < hi) && Mem.below hi m

/-! Fault entry. -/

/-- `raise Fault(c)` (R92): the one operation that enters the fault state. It ends the STEP, so the
working values go too (R22). -/
def State.raise (c : Cause) (s : State) : State :=
  { s with faulted := true, cause := c, lastMore := false, busy := false, work := Work.idle }

/-- What an operation of a STEP answers: it completes with a value, or it has raised a fault and
nothing further of the STEP runs (R8, R92). -/
inductive Res (α : Type) where
  | ok (a : α) (s : State)
  | raised (s : State)

/-- The next operation, which runs only if the one before it completed (R8). -/
def Res.bind {α β : Type} (r : Res α) (f : α → State → Res β) : Res β :=
  match r with
  | .ok a s => f a s
  | .raised s => .raised s

/-- The state an operation leaves, completed or raised. -/
def Res.state {α : Type} (r : Res α) : State :=
  match r with
  | .ok _ s => s
  | .raised s => s

/-- Did the operation complete? -/
def Res.completed {α : Type} (r : Res α) : Bool :=
  match r with
  | .ok _ _ => true
  | .raised _ => false

/-- A block fault is a state of the block, so either way the machine goes on (R92, R95). -/
def Res.outcome (r : Res Unit) : Host.Outcome State Fault Refusal := .next r.state

/-! The Bitstream Cursor. -/

/-- `ASSET[a]`, read on the asset port below `ASSET_LEN` only (R27). -/
def State.assetByte (s : State) (a : Nat) : Byte := s.asset.read a

/-- `at_end()` (R55). -/
def State.atEnd (s : State) : Bool := decide (s.assetLen.toNat ≤ s.pos.toNat)

/-- `pos <- pos + n`. -/
def State.advance (n : Nat) (s : State) : State := { s with pos := s.pos + BitVec.ofNat 32 n }

/-- `peek_u8()` (R56). -/
def peekU8 (s : State) : Res Byte :=
  if s.atEnd then .raised (s.raise .readPastEnd) else .ok (s.assetByte s.pos.toNat) s

/-- `read_u8()` (R57): a faulting read does not advance `pos`. -/
def readU8 (s : State) : Res Byte :=
  if s.atEnd then .raised (s.raise .readPastEnd)
  else .ok (s.assetByte s.pos.toNat) (s.advance 1)

/-- The bytes of the asset from address `a` up, at most `n` of them: what the consuming reads at `a`
would deliver before one of them faults. -/
def assetBytes (s : State) : (a n : Nat) → List Byte
  | _, 0 => []
  | a, n + 1 => if a < s.assetLen.toNat then s.assetByte a :: assetBytes s (a + 1) n else []

/-- All asset bytes from the cursor on. -/
def State.ahead (s : State) : List Byte :=
  assetBytes s s.pos.toNat (s.assetLen.toNat - s.pos.toNat)

/-! STEP bookkeeping. -/

/-- A STEP reads its opcode byte (R18, R68). -/
def State.noteOpcode (op : Byte) (s : State) : State :=
  { s with lastOp := op, lastOpValid := true }

/-- A STEP request is accepted (R19, R68). -/
def State.accept (s : State) : State := { s with busy := true }

/-- END: the cursor stands at the end before an opcode is read (R68). -/
def State.endOfStream (s : State) : State := { s with lastMore := false, busy := false }

/-- MORE: the record is done (R68), and its working values are gone (R22). -/
def State.returnMore (s : State) : State :=
  { s with lastMore := true, busy := false, work := Work.idle }

/-! Geometry. -/

/-- INIT's register writes (R14, R15, R16, R70): the four dimensions, the block counts and READY. -/
def State.setGeometry (a b c d : Byte) (s : State) : State :=
  { s with bw := a, bh := b, fw := c, fh := d, xb := c / a, yb := d / b, geomValid := true }

/-! Scratch buffer. -/

/-- A body of `target` bytes begins: nothing produced, no bit read (R60, R85). -/
def State.startBody (target : Nat) (s : State) : State :=
  { s with work := { bodyLen := target, out := 0, idx := 0 } }

/-- `Scratch[out .. out+n-1] <- b; out <- out + n` (R60, R61, R62). -/
def State.emit (n : Nat) (b : Byte) (s : State) : State :=
  { s with scratch := s.scratch.fill s.work.out n b,
           work := { s.work with out := s.work.out + n } }

/-- Bit `idx` of the decompressed body (R31). -/
def State.scratchBit (s : State) (idx : Nat) : Bool :=
  (s.scratch.read (idx / 8)).getLsbD (idx % 8)

/-- `idx <- idx + 1` (R85). -/
def State.nextBit (s : State) : State := { s with work := { s.work with idx := s.work.idx + 1 } }

/-! Framebuffer. -/

/-- The byte that holds pixel `(x, y)` (R32). -/
def State.fbIndex (s : State) (x y : Nat) : Nat := x + (y / 8) * s.cfg.fbStride

/-- The storage's pixel grid (R33). -/
def State.inGrid (s : State) (x y : Nat) : Bool :=
  decide (x < s.cfg.fbStride) && decide (y < 8 * s.cfg.fbPages)

/-- The value of pixel `(x, y)` (R32), for `(x, y)` in the grid. -/
def State.pixel (s : State) (x y : Nat) : Bool := (s.fb.read (s.fbIndex x y)).getLsbD (y % 8)

/-- One bit of a byte, other bits zero. -/
def bitAt (v : Bool) (k : Nat) : Byte := (if v then 1#8 else 0#8) <<< k

/-- A byte with bit `k` replaced (R79). -/
def putBit (w : Byte) (k : Nat) (v : Bool) : Byte := (w &&& ~~~(bitAt true k)) ||| bitAt v k

/-- The framebuffer replaced. -/
def State.withFb (m : Mem) (s : State) : State := { s with fb := m }

/-- `fb_get(x, y)` (R78). -/
def fbGet (x y : Nat) (s : State) : Res Bool :=
  if s.inGrid x y then .ok (s.pixel x y) s else .raised (s.raise .fbBounds)

/-- `fb_set(x, y, v)` (R79). -/
def fbSet (x y : Nat) (v : Bool) (s : State) : Res Unit :=
  if s.inGrid x y then
    .ok () (s.withFb (s.fb.write (s.fbIndex x y) (putBit (s.fb.read (s.fbIndex x y)) (y % 8) v)))
  else .raised (s.raise .fbBounds)

/-- `fb_invert(x, y)` (R80): get, then set of the inverse. -/
def fbInvert (x y : Nat) (s : State) : Res Unit :=
  (fbGet x y s).bind fun v t => fbSet x y (!v) t

end Sys2Proof.Machine
end

