-- ==== Sys2Proof/Machine/Operands.lean ====
section
/-!
DEFINITION. Every operand form: the u16 and the four bytes of a record's fixed part, the token of a
compressed body, the body bit, and the pixel coordinates of the traversal (30_encoding.md,
40_bitstream_cursor.md R58, 44_frame_decode.md R83 to R85).
-/

namespace Sys2Proof.Machine

/-- `read_u16()` (R58): both bytes are checked before either is consumed. -/
def readU16 (s : State) : Res Half :=
  if s.pos.toNat + 2 ≤ s.assetLen.toNat then
    .ok (u16le (s.assetByte s.pos.toNat) (s.assetByte (s.pos.toNat + 1))) (s.advance 2)
  else .raised (s.raise .readPastEnd)

/-- The operands of INIT: four consuming reads, the first missing byte faulting (R70). -/
def readInitOperands (s : State) : Res Instr :=
  (readU8 s).bind fun bw s₁ =>
  (readU8 s₁).bind fun bh s₂ =>
  (readU8 s₂).bind fun fw s₃ =>
  (readU8 s₃).bind fun fh s₄ => .ok (.init bw bh fw fh) s₄

/-- The operand of DELTA, its length (R87). -/
def readDeltaOperand (s : State) : Res Instr := (readU16 s).bind fun len t => .ok (.delta len) t

/-- The opcode fetch of a STEP and the operands of the record's fixed part (R68, R70, R87). Nothing
but `pos`, `last_op` and `last_op_valid` is written before the operands are complete, so the check
order is R94's (DEDUCED, assumption 16). -/
def fetchRecord (s : State) : Res Instr :=
  (readU8 s).bind fun op s₁ =>
    match decodeHead op with
    | .init => readInitOperands (s₁.noteOpcode op)
    | .delta => readDeltaOperand (s₁.noteOpcode op)
    | .whole i => .ok i (s₁.noteOpcode op)

/-- The next token of a body (R60 steps 1 to 3): `b1`, the lookahead unless the asset is at its end
(R64), and for a run the second byte and the count. -/
def fetchToken (s : State) : Res Token :=
  (readU8 s).bind fun b₁ s₁ =>
    if s₁.atEnd then .ok (.lit b₁) s₁
    else
      (peekU8 s₁).bind fun b₂ s₂ =>
        if b₂ = b₁ then (readU8 (s₂.advance 1)).bind fun n s₃ => .ok (.run b₁ n) s₃
        else .ok (.lit b₁) s₂

/-- `BodyBit()` (R85). -/
def bodyBit (s : State) : Res Bool :=
  if 8 * s.work.bodyLen ≤ s.work.idx then .raised (s.raise .bodyUnderrun)
  else .ok (s.scratchBit s.work.idx) s.nextBit

/-- `Mirror(x, y)` (R77), exact: the traversal only calls it with `x < fw` and `y < fh`
(DESIGN CHOICE outside that, assumption 10). -/
def State.mirror (s : State) (p : Nat × Nat) : Nat × Nat :=
  (s.fw.toNat - p.1, s.fh.toNat - p.2)

/-- The blocks `(bx, by)` in raster order, rows outermost (R83; PRESUMED by the spec itself,
assumption 9). -/
def State.blocks (s : State) : List (Nat × Nat) :=
  (List.range s.yb.toNat).flatMap fun by_ => (List.range s.xb.toNat).map fun bx => (bx, by_)

/-- The logical coordinates of a block's pixels in raster order (R83, R84). -/
def State.blockPixels (s : State) (b : Nat × Nat) : List (Nat × Nat) :=
  (List.range s.bh.toNat).flatMap fun py =>
    (List.range s.bw.toNat).map fun px => (b.1 * s.bw.toNat + px, b.2 * s.bh.toNat + py)

/-- Every pixel a frame record visits, in order (R83, R84). -/
def State.visited (s : State) : List (Nat × Nat) := s.blocks.flatMap s.blockPixels

end Sys2Proof.Machine
end

