-- ==== Sys2Proof/Machine/Inflate.lean ====
section
/-!
DEFINITION. The Run Decompressor (41_inflate.md): the tokens LIT and RUN, and inflate, which runs
them until the target length is reached.
-/

namespace Sys2Proof.Machine

/-- A token stands at the cursor: the body in progress is not complete (R47, R60). -/
def State.atToken (s : State) : Bool := decide (s.work.out < s.work.bodyLen)

/-- The effect of LIT (R61): one copy. -/
def emitLit (b : Byte) (s : State) : Res Unit := .ok () (s.emit 1 b)

/-- The effect of RUN (R62, R63): all `1 + n` copies, or `RUN_OVERRUN` and none. -/
def emitRun (b n : Byte) (s : State) : Res Unit :=
  if s.work.bodyLen < s.work.out + 1 + n.toNat then .raised (s.raise .runOverrun)
  else .ok () (s.emit (1 + n.toNat) b)

/-- The effect of a token. -/
def emitToken : Token → State → Res Unit
  | .lit b, s => emitLit b s
  | .run b n, s => emitRun b n s

/-- At a token position a token has its effect; elsewhere the bytes are no token, and the
model stops (DESIGN CHOICE, assumption 7). -/
def asToken (s : State) (r : Res Unit) : Host.Outcome State Fault Refusal :=
  if s.atToken then r.outcome else .fault .noTokenPosition

/-- LIT (R61). Its byte has been fetched: `pos` is past it. -/
def execLit (b : Byte) (s : State) : Host.Outcome State Fault Refusal := asToken s (emitLit b s)

/-- RUN (R62). Its three bytes have been fetched: `pos` is past them. -/
def execRun (b n : Byte) (s : State) : Host.Outcome State Fault Refusal := asToken s (emitRun b n s)

/-- The loop of R60. Each token produces at least one byte (R67), so `target` rounds complete any
body (DEDUCED, assumption 17). -/
def inflateLoop : Nat → State → Res Unit
  | 0, s => .ok () s
  | k + 1, s =>
    if s.atToken then
      (fetchToken s).bind fun t s₁ => (emitToken t s₁).bind fun _ s₂ => inflateLoop k s₂
    else .ok () s

/-- `inflate(target)` (R60, R65). -/
def inflate (target : Nat) (s : State) : Res Unit :=
  if s.cfg.scratchBytes < target then .raised (s.raise .scratchOverflow)
  else inflateLoop target (s.startBody target)

end Sys2Proof.Machine
end

