-- ==== Sys2Proof/Machine/Frames.lean ====
section
/-!
DEFINITION. The frame records FULL and DELTA (44_frame_decode.md R86 to R90): inflate completes
before the first pixel is touched (R88), and a fault in the walk leaves the earlier pixels (R89).
-/

namespace Sys2Proof.Machine

/-- FULL's walk (R86): one body bit per pixel, its inverse set at the mirrored coordinate. -/
def setPixels : List (Nat × Nat) → State → Res Unit
  | [], s => .ok () s
  | p :: ps, s =>
    (bodyBit s).bind fun b t =>
      (fbSet (t.mirror p).1 (t.mirror p).2 (!b) t).bind fun _ u => setPixels ps u

/-- The target length of a FULL body (R44, R86). -/
def State.fullLen (s : State) : Nat := ceilDiv (s.fw.toNat * s.fh.toNat) 8

/-- FULL (R86). -/
def execFull (s : State) : Host.Outcome State Fault Refusal :=
  ((inflate s.fullLen s).bind fun _ t => setPixels t.visited t).outcome

/-- The pixels of a dirty block (R87): each consumes its flag, a dirty one toggles. -/
def togglePixels : List (Nat × Nat) → State → Res Unit
  | [], s => .ok () s
  | p :: ps, s =>
    (bodyBit s).bind fun d t =>
      (if d then fbInvert (t.mirror p).1 (t.mirror p).2 t else .ok () t).bind fun _ u =>
        togglePixels ps u

/-- DELTA's walk (R87): one flag per block, and the pixels of the dirty ones. -/
def toggleBlocks : List (Nat × Nat) → State → Res Unit
  | [], s => .ok () s
  | b :: bs, s =>
    (bodyBit s).bind fun d t =>
      (if d then togglePixels (t.blockPixels b) t else .ok () t).bind fun _ u => toggleBlocks bs u

/-- DELTA (R87), its length consumed. -/
def execDelta (len : Half) (s : State) : Host.Outcome State Fault Refusal :=
  ((inflate len.toNat s).bind fun _ t => toggleBlocks t.blocks t).outcome

end Sys2Proof.Machine
end

