-- ==== Sys2Proof/Machine/Records.lean ====
section
/-!
DEFINITION. The records that touch no pixel: INIT, NOP and the illegal opcodes
(42_geometry_dispatch.md R70 to R74).
-/

namespace Sys2Proof.Machine

/-- INIT (R70, R74), its four operand bytes consumed: a zero block dimension faults before any
register is written. -/
def execInit (bw bh fw fh : Byte) (s : State) : Host.Outcome State Fault Refusal :=
  .next (if bw = 0 ∨ bh = 0 then s.raise .zeroBlockDim else s.setGeometry bw bh fw fh)

/-- NOP (R71): the opcode byte was the whole record. -/
def execNop (s : State) : Host.Outcome State Fault Refusal := .next s

/-- An opcode outside 0x00..0x03 (R72). -/
def unrecognized (_op : Byte) (s : State) : Host.Outcome State Fault Refusal :=
  .next (s.raise .unrecognizedOpcode)

/-- ILLEGAL, opcodes 0x04..0x07 (R72). -/
def execIllegal04 (op : Byte) (s : State) : Host.Outcome State Fault Refusal := unrecognized op s

/-- ILLEGAL, opcodes 0x08..0x0F (R72). -/
def execIllegal08 (op : Byte) (s : State) : Host.Outcome State Fault Refusal := unrecognized op s

/-- ILLEGAL, opcodes 0x10..0x1F (R72). -/
def execIllegal10 (op : Byte) (s : State) : Host.Outcome State Fault Refusal := unrecognized op s

/-- ILLEGAL, opcodes 0x20..0x3F (R72). -/
def execIllegal20 (op : Byte) (s : State) : Host.Outcome State Fault Refusal := unrecognized op s

/-- ILLEGAL, opcodes 0x40..0x7F (R72). -/
def execIllegal40 (op : Byte) (s : State) : Host.Outcome State Fault Refusal := unrecognized op s

/-- ILLEGAL, opcodes 0x80..0xFF (R72). -/
def execIllegal80 (op : Byte) (s : State) : Host.Outcome State Fault Refusal := unrecognized op s

end Sys2Proof.Machine
end

