-- ==== Sys2Proof/Machine/Dispatch.lean ====
section
/-!
DEFINITION. One arm per instruction (42_geometry_dispatch.md R68, 41_inflate.md R60).
-/

namespace Sys2Proof.Machine

def exec (i : Instr) (s : State) : Host.Outcome State Fault Refusal :=
  match i with
  | .init bw bh fw fh => Sys2Proof.Machine.execInit bw bh fw fh s
  | .full => Sys2Proof.Machine.execFull s
  | .nop => Sys2Proof.Machine.execNop s
  | .delta len => Sys2Proof.Machine.execDelta len s
  | .illegal04 op => Sys2Proof.Machine.execIllegal04 op s
  | .illegal08 op => Sys2Proof.Machine.execIllegal08 op s
  | .illegal10 op => Sys2Proof.Machine.execIllegal10 op s
  | .illegal20 op => Sys2Proof.Machine.execIllegal20 op s
  | .illegal40 op => Sys2Proof.Machine.execIllegal40 op s
  | .illegal80 op => Sys2Proof.Machine.execIllegal80 op s
  | .lit b => Sys2Proof.Machine.execLit b s
  | .run b n => Sys2Proof.Machine.execRun b n s

end Sys2Proof.Machine
end

