-- ==== Sys2Proof/Machine/Sequencer.lean ====
section
/-!
DEFINITION. What a STEP does before and after its record (42_geometry_dispatch.md R68, R69).
-/

namespace Sys2Proof.Machine

/-- A STEP request, up to the point where a record runs. -/
inductive Begun where
  /-- The model has no transition. -/
  | refuse (r : Refusal)
  /-- The STEP is over without a record: FAULT in the fault state, END, or a fetch that faulted. -/
  | over (s : State)
  /-- The record `i` runs in state `s`, its fixed part consumed. -/
  | record (i : Instr) (s : State)

/-- The head of STEP (R68): a request while busy has no transition (R114); the fault state changes
nothing (R95); the end of the asset is tested before an opcode is read. -/
def beginStep (s : State) : Begun :=
  if s.busy then .refuse .stepWhileBusy
  else if s.faulted then .over s
  else if s.accept.atEnd then .over s.accept.endOfStream
  else
    match fetchRecord s.accept with
    | .raised t => .over t
    | .ok i t => .record i t

/-- The tail of STEP (R68): MORE, unless the record raised a fault (R92). -/
def finishStep : Host.Outcome State Fault Refusal → Host.Outcome State Fault Refusal
  | .next t => .next (if t.faulted then t else t.returnMore)
  | .fault r => .fault r
  | .refused r => .refused r

/-- The asset bytes `bs` placed from address `a` up. -/
def placeBytes : List Byte → Nat → Mem → Mem
  | [], _, m => m
  | b :: bs, a, m => placeBytes bs (a + 1) (m.write a b)

/-- The host provides an asset (R110) that holds `bs` at the cursor, and is at least that long. -/
def State.provide (bs : List Byte) (s : State) : State :=
  { s with
    asset := placeBytes bs s.pos.toNat s.asset,
    assetLen := BitVec.ofNat 32 (max s.assetLen.toNat (s.pos.toNat + bs.length)) }

end Sys2Proof.Machine
end

