-- ==== Sys2Proof/Machine/Step.lean ====
section
/-!
DEFINITION. One STEP (42_geometry_dispatch.md R68), an atomic transition of the decoder (R9, R103).
-/

namespace Sys2Proof.Machine

/-- `STEP()` (R68). Its result is `State.result` of the state it leaves. -/
def step (s : State) : Host.Outcome State Fault Refusal :=
  match beginStep s with
  | .refuse r => .refused r
  | .over t => .next t
  | .record i t => finishStep (exec i t)

/-- The state with an opcode-table word provided as the asset bytes at the cursor (DESIGN
CHOICE, assumption 2). -/
def State.withFetchWord (s : State) (nbits w : Nat) : State := s.provide (tableBytes nbits w)

end Sys2Proof.Machine
end

