-- ==== Sys2Proof/Machine/Assembler.lean ====
section
/-!
DEFINITION. The stream assembly notation (30_encoding.md R53) with its pseudo-tokens (R54): what
bytes a stream text stands for, and what an assembler refuses. The bytes are normative, the notation
a convenience (92_eei_decisions.md D25); nothing of the machine depends on this file.
-/

namespace Sys2Proof.Machine

/-- A token of a `FULL` or `DELTA` line as written: numbers are naturals, checked when assembled. -/
inductive AsmToken where
  | lit (b : Nat)
  | run (b n : Nat)
  /-- `REP b, c` (R54). -/
  | rep (b c : Nat)
  /-- `BYTES v0, v1, ..., vk` (R54). -/
  | bytes (vs : List Nat)
deriving DecidableEq, Repr

/-- A line of a stream text (R53). -/
inductive AsmLine where
  | init (bw bh fw fh : Nat)
  | full (ts : List AsmToken)
  | nop
  | delta (len : Nat) (ts : List AsmToken)
  /-- `.byte v1, v2, ...`. -/
  | raw (vs : List Nat)
deriving DecidableEq, Repr

/-- What an assembler refuses (R53), and a repeat count outside the range R54 defines. -/
inductive AsmError where
  | operandRange
  | literalRepeats
  | bodyLength
  | repeatCount
deriving DecidableEq, Repr

/-- What assembling answers. -/
inductive AsmRes (α : Type) where
  | ok (a : α)
  | refused (e : AsmError)
deriving DecidableEq, Repr

/-- Assemble further only if nothing was refused. -/
def AsmRes.bind {α β : Type} (r : AsmRes α) (f : α → AsmRes β) : AsmRes β :=
  match r with
  | .ok a => f a
  | .refused e => .refused e

/-- An operand in 0 to 255 (R53). -/
def asmByte (n : Nat) : AsmRes Byte :=
  if n < 256 then .ok (BitVec.ofNat 8 n) else .refused .operandRange

/-- Several operands in 0 to 255. -/
def asmBytes : List Nat → AsmRes (List Byte)
  | [] => .ok []
  | n :: ns => (asmByte n).bind fun b => (asmBytes ns).bind fun bs => .ok (b :: bs)

/-- Maximal groups of equal adjacent values, with their counts (R54). -/
def groupEqual : List Byte → List (Byte × Nat)
  | [] => []
  | v :: vs =>
    match groupEqual vs with
    | [] => [(v, 1)]
    | (w, c) :: g => if w = v then (w, c + 1) :: g else (v, 1) :: (w, c) :: g

/-- `REP b, c` for `1 ≤ c ≤ 256`: `RUN b, c-1` (R54). -/
def repToken (b : Byte) (c : Nat) : Token := .run b (BitVec.ofNat 8 (c - 1))

/-- The pieces of one group of `c` copies of `v`, `next` being the byte emitted after it (R54). For a
remainder of 1 with no byte after it, at the end of the asset, R54 names the case but not the piece: the
model emits `LIT v` (DESIGN CHOICE, assumption 19). -/
def groupTokens (v : Byte) (c : Nat) (next : Option Byte) : List Token :=
  List.replicate (c / 256) (repToken v 256) ++
    (if c % 256 = 0 then []
     else if c % 256 = 1 then
       (if next = some v then [repToken v 1] else [.lit v])
     else [repToken v (c % 256)])

/-- The first byte of `ts`, or else `next`: the byte emitted after whatever stands before `ts`. -/
def firstByte (ts : List Token) (next : Option Byte) : Option Byte :=
  ((encodeTokens ts).head?).or next

/-- `BYTES`, group by group; the group after decides what follows a single byte (R54). -/
def bytesTokens : List (Byte × Nat) → Option Byte → List Token
  | [], _ => []
  | (v, c) :: g, next =>
    groupTokens v c (firstByte (bytesTokens g next) next) ++ bytesTokens g next

/-- One written token, `next` being the byte emitted after it: a literal that repeats in the next
byte is refused (R53). -/
def asmToken (t : AsmToken) (next : Option Byte) : AsmRes (List Token) :=
  match t with
  | .lit b =>
    (asmByte b).bind fun b => if next = some b then .refused .literalRepeats else .ok [.lit b]
  | .run b n => (asmByte b).bind fun b => (asmByte n).bind fun n => .ok [.run b n]
  | .rep b c =>
    if 1 ≤ c ∧ c ≤ 256 then (asmByte b).bind fun b => .ok [repToken b c]
    else .refused .repeatCount
  | .bytes vs => (asmBytes vs).bind fun vs => .ok (bytesTokens (groupEqual vs) next)

/-- The tokens of a line, from the last to the first, since each looks at the byte after it. -/
def asmTokens : List AsmToken → Option Byte → AsmRes (List Token)
  | [], _ => .ok []
  | t :: ts, next =>
    (asmTokens ts next).bind fun us =>
      (asmToken t (firstByte us next)).bind fun vs => .ok (vs ++ us)

/-- A body of exactly `target` decompressed bytes (R53). -/
def asmBody (target : Nat) (ts : List AsmToken) (next : Option Byte) : AsmRes (List Byte) :=
  (asmTokens ts next).bind fun us =>
    if (expandTokens us).length = target then .ok (encodeTokens us) else .refused .bodyLength

/-- One line under the frame width and height in force (R53). -/
def asmLine (l : AsmLine) (fw fh : Nat) (next : Option Byte) : AsmRes (List Byte) :=
  match l with
  | .init a b c d => (asmBytes [a, b, c, d]).bind fun vs => .ok (0x00 :: vs)
  | .full ts => (asmBody (ceilDiv (fw * fh) 8) ts next).bind fun bs => .ok (0x01 :: bs)
  | .nop => .ok [0x02]
  | .delta len ts =>
    if len < 65536 then
      (asmBody len ts next).bind fun bs =>
        .ok (encode (.delta (BitVec.ofNat 16 len)) ++ bs)
    else .refused .operandRange
  | .raw vs => asmBytes vs

/-- The frame width and height in force after a line (DEDUCED, assumption 12): an `INIT` line sets them. -/
def geometryAfter (l : AsmLine) (fw fh : Nat) : Nat × Nat :=
  match l with
  | .init _ _ c d => (c, d)
  | .full _ => (fw, fh)
  | .nop => (fw, fh)
  | .delta _ _ => (fw, fh)
  | .raw _ => (fw, fh)

/-- A stream text under the frame width and height in force. -/
def asmStream : List AsmLine → (fw fh : Nat) → AsmRes (List Byte)
  | [], _, _ => .ok []
  | l :: ls, fw, fh =>
    (asmStream ls (geometryAfter l fw fh).1 (geometryAfter l fw fh).2).bind fun rest =>
      (asmLine l fw fh rest.head?).bind fun bs => .ok (bs ++ rest)

/-- A whole stream text: before any INIT the geometry is zero (R73). -/
def assemble (ls : List AsmLine) : AsmRes (List Byte) := asmStream ls 0 0

end Sys2Proof.Machine
end

