-- ==== Sys2Proof/Machine/Flags.lean ====
section
/-!
DEFINITION. Status bits. The block has no arithmetic flags or condition codes (10_state.md R25): its
status is the STEP result and the words of the register map (R23).
-/

namespace Sys2Proof.Machine

/-- The 4-bit code of a fault cause (R91). -/
def Cause.code : Cause → BitVec 4
  | .none => 0
  | .unrecognizedOpcode => 1
  | .readPastEnd => 2
  | .runOverrun => 3
  | .zeroBlockDim => 4
  | .bodyUnderrun => 5
  | .fbBounds => 6
  | .scratchOverflow => 7

/-- The code of a STEP result on the `result` port (R103). -/
def StepResult.code : StepResult → Nat
  | .ended => 0
  | .more => 1
  | .fault => 2

/-- The result of the STEP that left this state (R68, R18): FAULT in the fault state, else MORE or
END as `last_more` tells (DEDUCED, assumption 6). -/
def State.result (s : State) : StepResult :=
  if s.faulted then .fault else if s.lastMore then .more else .ended

/-- A STEP that returned MORE is a render point: the framebuffer is a frame the host is to show, even
after a record that changed no pixel (R75). -/
def State.renderPoint (s : State) : Bool := decide (s.result = .more)

/-- The `fatal` output (R93). -/
def State.fatal (s : State) : Bool := s.faulted

/-- Register 0, STATUS (R23): BUSY, GEOM_VALID, AT_END, FAULTED, LAST_MORE from bit 0 up. -/
def State.statusWord (s : State) : Word :=
  0#27 ++ BitVec.ofBool s.lastMore ++ BitVec.ofBool s.faulted ++ BitVec.ofBool s.atEnd ++
    BitVec.ofBool s.geomValid ++ BitVec.ofBool s.busy

/-- Register 1, FAULT (R23). -/
def State.faultWord (s : State) : Word := 0#28 ++ s.cause.code

/-- Register 3, GEOM (R23): BW, BH, FW, FH from bit 0 up. -/
def State.geomWord (s : State) : Word := s.fh ++ s.fw ++ s.bh ++ s.bw

/-- Register 4, BLOCKS (R23): XB, YB from bit 0 up. -/
def State.blocksWord (s : State) : Word := 0#16 ++ s.yb ++ s.xb

/-- Register 5, LAST_OP (R23): OPCODE, then VALID. -/
def State.lastOpWord (s : State) : Word := 0#23 ++ BitVec.ofBool s.lastOpValid ++ s.lastOp

end Sys2Proof.Machine
end

