-- ==== Sys2Proof/Machine/Ports.lean ====
section
/-!
DEFINITION. The host's side (60_exceptions.md R103, R104): reset, the STEP request, the register
port (10_state.md R23, R24) and the display port (43_framebuffer.md R81).
-/

namespace Sys2Proof.Machine

/-- Asserting `rst` in any state (R108, R109): the reset state of the same launch (DEDUCED,
assumption 11). -/
def State.rst (s : State) : State := State.launch s.cfg s.asset s.assetLen

/-- The host provides an asset, to be decoded from reset (R104, R110). -/
def State.rstWith (asset : Mem) (assetLen : Word) (s : State) : State :=
  State.launch s.cfg asset assetLen

/-- The register map (R23); numbers 6 and above read 0 (R24). -/
def State.register (s : State) (n : Nat) : Word :=
  if n = 0 then s.statusWord
  else if n = 1 then s.faultWord
  else if n = 2 then s.pos
  else if n = 3 then s.geomWord
  else if n = 4 then s.blocksWord
  else if n = 5 then s.lastOpWord
  else 0

/-- A register port read (R23): while `busy = 1` a draw under no law (R113). -/
def readRegister (draw n : Nat) (s : State) : Word :=
  if s.busy then Config.busyRegRead draw n else s.register n

/-- A register port write: ignored (R24). -/
def writeRegister (_n : Nat) (_v : Word) (s : State) : State := s

/-- `fb_rd(i)` (R81): `FB[i]` inside the storage and 0x00 outside it; while `busy = 1` a draw under
no law (R113). -/
def readDisplay (draw i : Nat) (s : State) : Byte :=
  if s.busy then Config.busyFbRead draw i
  else if i < s.cfg.fbBytes then s.fb.read i else 0x00

/-- One render request: all `FB_BYTES` bytes in index order (R81). -/
def renderBytes (draw : Nat) (s : State) : List Byte :=
  (List.range s.cfg.fbBytes).map fun i => readDisplay (draw + i) i s

/-- What the host can do (R103, R104); a port read carries the number of the draw it makes. -/
inductive HostMove where
  | rst
  | rstWith (asset : Mem) (assetLen : Word)
  | stepReq
  | readReg (draw n : Nat)
  | writeReg (n : Nat) (v : Word)
  | readFb (draw i : Nat)
deriving DecidableEq, Repr

/-- What the block gives back. -/
inductive Reply where
  | done
  | result (r : StepResult)
  | word (w : Word)
  | byte (b : Byte)
deriving DecidableEq, Repr

/-- The block's answer to a host move: the state after it and what a port delivers. -/
def hostMove (m : HostMove) (s : State) : Host.Outcome (State × Reply) Fault Refusal :=
  match m with
  | .rst => .next (s.rst, .done)
  | .rstWith a n => .next (s.rstWith a n, .done)
  | .stepReq =>
    match step s with
    | .next t => .next (t, .result t.result)
    | .fault r => .fault r
    | .refused r => .refused r
  | .readReg d n => .next (s, .word (readRegister d n s))
  | .writeReg n v => .next (writeRegister n v s, .done)
  | .readFb d i => .next (s, .byte (readDisplay d i s))

end Sys2Proof.Machine
end

