-- ==== Sys2Proof/Safety.lean ====
section
/-!
DEFINITION. The terms claims use: the invariant of the block, playback, and what a compressed and a
decompressed body stand for, written independently of the operations that decode them.
-/

namespace Sys2Proof.Machine

/-! The invariant. -/

/-- The geometry registers agree (R14, R15, R16): READY with nonzero block dimensions and the block
counts of the dimensions, or UNINITIALIZED with every geometry register 0. -/
def State.geomOk (s : State) : Bool :=
  if s.geomValid then
    (s.bw != 0) && (s.bh != 0) && (s.xb == s.fw / s.bw) && (s.yb == s.fh / s.bh)
  else (s.bw == 0) && (s.bh == 0) && (s.fw == 0) && (s.fh == 0) && (s.xb == 0) && (s.yb == 0)

/-- What holds at every state the host sees (R5, R12, R14 to R22, R26). -/
structure State.Inv (s : State) : Prop where
  /-- The parameters are in range (R5). -/
  cfg_legal : s.cfg.legal = true
  /-- The cursor never passes the end of the asset (R12). -/
  pos_le : s.pos.toNat ≤ s.assetLen.toNat
  /-- Each space in canonical form and inside its size (R26). -/
  asset_wf : Mem.wf s.asset = true
  asset_below : Mem.below s.assetLen.toNat s.asset = true
  fb_wf : Mem.wf s.fb = true
  fb_below : Mem.below s.cfg.fbBytes s.fb = true
  scratch_wf : Mem.wf s.scratch = true
  scratch_below : Mem.below s.cfg.scratchBytes s.scratch = true
  /-- R14 to R16. -/
  geom : s.geomOk = true
  /-- A fault has a cause, and only a fault has one (R17, R91). -/
  cause_iff : s.faulted = true ↔ s.cause ≠ Cause.none
  /-- A faulted STEP did not return MORE (R18, R92). -/
  fault_more : s.faulted = true → s.lastMore = false
  /-- Until an opcode byte has been read, nothing has happened (R13, R18). -/
  unread : s.lastOpValid = false →
    s.pos = 0 ∧ s.lastOp = 0 ∧ s.geomValid = false ∧ s.lastMore = false ∧ s.faulted = false
  /-- No STEP is in progress (R19, R22). -/
  idle : s.busy = false
  work_idle : s.work = Work.idle

/-! Playback (R105). -/

/-- `k` STEPs, each of which returned MORE. -/
def moreSteps : Nat → State → Option State
  | 0, s => some s
  | k + 1, s =>
    match step s with
    | .next t => if t.result = .more then moreSteps k t else none
    | .fault _ => none
    | .refused _ => none

/-- The run from `s` ends cleanly in `u`: `k` STEPs returning MORE, then one returning END. -/
def playsToEnd (k : Nat) (s u : State) : Prop :=
  ∃ t, moreSteps k s = some t ∧ step t = .next u ∧ u.result = .ended

/-- The run from `s` ends in a fault in `u`, which is no clean end. -/
def playsToFault (k : Nat) (s u : State) : Prop :=
  ∃ t, moreSteps k s = some t ∧ step t = .next u ∧ u.result = .fault

/-! Bodies. -/

/-- The asset bytes from `a` on are the tokens `ts` (the conditions of R47): a literal's successor
differs or does not exist, a run's byte is doubled and its count present. -/
def tokensAt (s : State) : Nat → List Token → Bool
  | _, [] => true
  | a, .lit b :: ts =>
    decide (a < s.assetLen.toNat) && (s.assetByte a == b) &&
      (decide (s.assetLen.toNat ≤ a + 1) || (s.assetByte (a + 1) != b)) && tokensAt s (a + 1) ts
  | a, .run b n :: ts =>
    decide (a + 2 < s.assetLen.toNat) && (s.assetByte a == b) && (s.assetByte (a + 1) == b) &&
      (s.assetByte (a + 2) == n) && tokensAt s (a + 3) ts

/-- The bits of a decompressed body in the order they are consumed (R31). -/
def bodyBits (bs : List Byte) : List Bool :=
  bs.flatMap fun b => (List.range 8).map fun k => b.getLsbD k

/-- The number of the pixel `(x, y)` in the order of the traversal, from 0 (R49, R83). -/
def pixelNumber (s : State) (x y : Nat) : Nat :=
  ((y / s.bh.toNat) * s.xb.toNat + x / s.bw.toNat) * (s.bw.toNat * s.bh.toNat) +
    (y % s.bh.toNat) * s.bw.toNat + x % s.bw.toNat

/-- What a DELTA body says (R50): the pixels its flags name, in the order of the walk, up to where the
bits run out, and whether they suffice for the whole walk. -/
def toggleTrace (pixels : Nat × Nat → List (Nat × Nat)) :
    List (Nat × Nat) → List Bool → List (Nat × Nat) × Bool
  | [], _ => ([], true)
  | _ :: _, [] => ([], false)
  | _ :: bs, false :: r => toggleTrace pixels bs r
  | b :: bs, true :: r =>
    let flagged := (((pixels b).zip r).filter fun pr => pr.2).map Prod.fst
    if r.length < (pixels b).length then (flagged, false)
    else
      let rest := toggleTrace pixels bs (r.drop (pixels b).length)
      (flagged ++ rest.1, rest.2)

/-- What the decompressed body `bytes` of a DELTA says under the geometry in force. -/
def State.deltaTrace (s : State) (bytes : List Byte) : List (Nat × Nat) × Bool :=
  toggleTrace s.blockPixels s.blocks (bodyBits bytes)

/-- The pixels of a walk before the first whose mirror lies outside the storage (R33, R89). -/
def State.beforeOutside (s : State) (ps : List (Nat × Nat)) : List (Nat × Nat) :=
  ps.takeWhile fun p => s.inGrid (s.mirror p).1 (s.mirror p).2

/-- The framebuffer byte a logical pixel's mirror lies in (R32, R77). -/
def State.mirrorIndex (s : State) (p : Nat × Nat) : Nat := s.fbIndex (s.mirror p).1 (s.mirror p).2

end Sys2Proof.Machine
end

