-- ==== Sys2Proof/Certificates/Slice0/Obligations.lean ====
section
/-!
DEFINITION. The statements for the provers. Each docstring names the rule of spec/ it formalises.
-/

open Sys2Proof Sys2Proof.Machine

/-! Encoding (30_encoding.md). -/

/-- R42 to R46, R51: a record's fixed part, decoded, is the record, at every operand value and
whatever bytes follow. -/
def Obligations.DecodeOfEncodedRecord : Prop :=
  ∀ (i : Instr) (rest : List Byte), i.wellFormed = true → i.isRecord = true →
    decode (encode i ++ rest) = .instr i rest

/-- R42 to R46: the decoder accepts nothing but encodings of well-formed records, so a byte string
has one reading as a record. -/
def Obligations.DecodedRecordIsItsEncoding : Prop :=
  ∀ (bytes rest : List Byte) (i : Instr), decode bytes = .instr i rest →
    i.wellFormed = true ∧ i.isRecord = true ∧ encode i ++ rest = bytes

/-- R47, R64: an encoded token, decoded, is the token, when a literal's successor differs from it or
does not exist. -/
def Obligations.DecodeOfEncodedToken : Prop :=
  ∀ (t : Token) (rest : List Byte), (∀ b, t = .lit b → rest.head? ≠ some b) →
    decodeToken (encode t.instr ++ rest) = .instr t.instr rest

/-- R47, R66: what the token decoder accepts is a token's encoding, and a literal's successor
differs from it, whatever record that successor belongs to. -/
def Obligations.DecodedTokenIsItsEncoding : Prop :=
  ∀ (bytes rest : List Byte) (i : Instr), decodeToken bytes = .instr i rest →
    ∃ t : Token, i = t.instr ∧ encode i ++ rest = bytes ∧ (∀ b, t = .lit b → rest.head? ≠ some b)

/-- R42: the opcode map. All eight bits of byte 0 select the record; 0x04 to 0xFF are the
well-formed ILLEGAL rows, which carry the opcode byte and read no body byte. That DELTA's length has its
low byte first is R28's reading of "little-endian", PRESUMED by the spec itself (assumption 8). -/
def Obligations.OpcodeMap : Prop :=
  ∀ (op : Byte) (rest : List Byte),
    (op = 0x00 → ∀ bw bh fw fh r, rest = bw :: bh :: fw :: fh :: r →
      decode (op :: rest) = .instr (.init bw bh fw fh) r) ∧
    (op = 0x01 → decode (op :: rest) = .instr .full rest) ∧
    (op = 0x02 → decode (op :: rest) = .instr .nop rest) ∧
    (op = 0x03 → ∀ lo hi r, rest = lo :: hi :: r →
      decode (op :: rest) = .instr (.delta (hi ++ lo)) r) ∧
    (4 ≤ op.toNat → ∃ i, decode (op :: rest) = .instr i rest ∧ i.wellFormed = true ∧
      (i = .illegal04 op ∨ i = .illegal08 op ∨ i = .illegal10 op ∨ i = .illegal20 op ∨
        i = .illegal40 op ∨ i = .illegal80 op))

/-- Words written out from R43, R45, R46, R47 and the opcode table. The word of DELTA has its length
low byte first, R28's reading of "little-endian", PRESUMED by the spec itself (assumption 8). -/
def Obligations.SpecWordsDecode : Prop :=
  decode [0x00, 0x04, 0x02, 0x54, 0x30] = .instr (.init 4 2 84 48) [] ∧
  decode [0x02, 0x03] = .instr .nop [0x03] ∧
  decode [0x03, 0x34, 0x12, 0x99] = .instr (.delta 0x1234) [0x99] ∧
  decode [0x07] = .instr (.illegal04 7) [] ∧
  decode [0xFF] = .instr (.illegal80 0xFF) [] ∧
  decodeToken [0x05, 0x05, 0x02] = .instr (.run 5 2) [] ∧
  decodeToken [0x01, 0x02] = .instr (.lit 1) [0x02]

/-! STEP (42_geometry_dispatch.md R68). -/

/-- R68: when the asset bytes at the cursor decode to a record, the STEP is that record's meaning,
run with `busy` set, the opcode noted and the record's fixed part consumed, and followed by
`finishStep` (MORE unless a fault was raised). -/
def Obligations.StepRunsDecodedRecord : Prop :=
  ∀ (s : State) (i : Instr) (rest : List Byte), s.busy = false → s.faulted = false →
    decode s.ahead = .instr i rest →
    i.wellFormed = true ∧
    step s = finishStep (exec i { s with
        busy := true, lastOp := (encode i).headD 0, lastOpValid := true,
        pos := s.pos + BitVec.ofNat 32 (encode i).length })

/-- R57, R58, R70, R87: a record cut short in its fixed part faults READ_PAST_END: an INIT with the
cursor at the end of the asset, a DELTA with the cursor after its opcode. -/
def Obligations.RecordCutShortFaults : Prop :=
  ∀ (s : State), s.busy = false → s.faulted = false →
    (decode s.ahead = .rejected .initCutShort →
      step s = .next { s with
          pos := s.assetLen, lastOp := 0x00, lastOpValid := true,
          faulted := true, cause := .readPastEnd, lastMore := false, work := Work.idle }) ∧
    (decode s.ahead = .rejected .deltaCutShort →
      step s = .next { s with
          pos := s.pos + 1, lastOp := 0x03, lastOpValid := true,
          faulted := true, cause := .readPastEnd, lastMore := false, work := Work.idle })

/-- R68: a STEP at the end of the asset returns END, changing nothing but `last_more`, and the STEP
after it does the same. -/
def Obligations.EndIsRepeatable : Prop :=
  ∀ (s : State), s.busy = false → s.faulted = false → s.assetLen.toNat ≤ s.pos.toNat →
    step s = .next { s with lastMore := false } ∧
    State.result { s with lastMore := false } = .ended ∧
    step { s with lastMore := false } = .next { s with lastMore := false }

/-- R95 (the spec's decision D19): in the fault state a STEP returns FAULT and changes nothing, `fatal` stays 1, the ports
still answer, and no host move other than reset clears it. -/
def Obligations.FaultStateIsSticky : Prop :=
  ∀ (s : State), s.busy = false → s.faulted = true →
    step s = .next s ∧ s.result = .fault ∧ s.fatal = true ∧
    (∀ d n, readRegister d n s = s.register n) ∧
    (∀ d i, readDisplay d i s = if i < s.cfg.fbBytes then s.fb.read i else 0) ∧
    (∀ (m : HostMove) (t : State) (r : Reply), hostMove m s = .next (t, r) →
      (m = .rst ∨ ∃ a n, m = .rstWith a n) ∨ (t = s ∧ (m = .stepReq → r = .result .fault)))

/-- R114: the model has no transition for a STEP request while busy, and refuses it by name
(assumption 13). -/
def Obligations.StepWhileBusyRefused : Prop :=
  ∀ (s : State), s.busy = true → step s = .refused .stepWhileBusy

/-- R68, R117: every accepted STEP completes, in an idle state. -/
def Obligations.EveryStepCompletes : Prop :=
  ∀ (s : State), s.busy = false →
    ∃ t, step s = .next t ∧ t.busy = false ∧ (s.work = Work.idle → t.work = Work.idle)

/-- R107: a STEP that meets a fault returns FAULT; END comes only from the end test before an opcode
is read, and MORE only from a STEP that read an opcode. -/
def Obligations.FaultsAreNotEndOfStream : Prop :=
  ∀ (s t : State), s.busy = false → step s = .next t →
    (t.faulted = true → t.result = .fault) ∧
    (t.result = .ended →
      s.faulted = false ∧ s.assetLen.toNat ≤ s.pos.toNat ∧ t = { s with lastMore := false }) ∧
    (t.result = .more →
      s.faulted = false ∧ s.pos.toNat < s.assetLen.toNat ∧ t.lastMore = true ∧
      t.lastOpValid = true ∧ t.lastOp = s.assetByte s.pos.toNat)

/-- R92: what a STEP that enters the fault state leaves: the fault registers set, the opcode byte of
its record in `last_op`, the geometry, the decoder state and the launch untouched; the cursor moved
forward within the asset; a framebuffer byte changed only if it holds the mirror of a visited pixel and
the fault arose in the walk (R88, R89); a scratch byte changed only by a frame record, below its
target, and not if the target exceeds the capacity (R60, R65). Where DELTA's length is read it is low
byte first (assumption 8). -/
def Obligations.FaultingStepFrame : Prop :=
  ∀ (s t : State), s.busy = false → s.faulted = false → step s = .next t → t.faulted = true →
    t.cause ≠ .none ∧
    t = { s with
        pos := t.pos, lastOp := s.assetByte s.pos.toNat, lastOpValid := true,
        faulted := true, cause := t.cause, lastMore := false, work := Work.idle,
        fb := t.fb, scratch := t.scratch } ∧
    (s.pos.toNat < t.pos.toNat ∧ t.pos.toNat ≤ s.assetLen.toNat) ∧
    (∀ a, (∀ p ∈ s.visited, a ≠ s.mirrorIndex p) → t.fb.read a = s.fb.read a) ∧
    (t.cause ≠ .bodyUnderrun → t.cause ≠ .fbBounds → t.fb = s.fb) ∧
    (s.assetByte s.pos.toNat ≠ 0x01 → s.assetByte s.pos.toNat ≠ 0x03 →
      t.fb = s.fb ∧ t.scratch = s.scratch) ∧
    (s.assetByte s.pos.toNat = 0x01 → ∀ a, s.fullLen ≤ a →
      t.scratch.read a = s.scratch.read a) ∧
    (s.assetByte s.pos.toNat = 0x03 → ∀ a,
      (s.assetByte (s.pos.toNat + 1)).toNat + 256 * (s.assetByte (s.pos.toNat + 2)).toNat ≤ a →
      t.scratch.read a = s.scratch.read a) ∧
    (t.cause = .scratchOverflow → t.scratch = s.scratch)

/-- R12: the cursor never decreases and never passes the end of the asset. -/
def Obligations.CursorIsMonotone : Prop :=
  ∀ (s t : State), s.pos.toNat ≤ s.assetLen.toNat → step s = .next t →
    s.pos.toNat ≤ t.pos.toNat ∧ t.pos.toNat ≤ t.assetLen.toNat

/-- R27, R39, R115: no instruction writes the asset, its length or the configuration. -/
def Obligations.AssetIsImmutable : Prop :=
  ∀ (i : Instr) (s t : State), exec i s = .next t →
    t.asset = s.asset ∧ t.assetLen = s.assetLen ∧ t.cfg = s.cfg

/-- R14, R15, R16: no instruction but INIT writes the geometry registers or `geom_valid`. -/
def Obligations.OnlyInitWritesGeometry : Prop :=
  ∀ (i : Instr) (s t : State), (∀ a b c d, i ≠ .init a b c d) → exec i s = .next t →
    t.bw = s.bw ∧ t.bh = s.bh ∧ t.fw = s.fw ∧ t.fh = s.fh ∧ t.xb = s.xb ∧ t.yb = s.yb ∧
    t.geomValid = s.geomValid

/-- R12, R14 to R22, R26: from every state with the invariant, a STEP that answers a next state keeps
it. -/
def Obligations.StepKeepsInvariant : Prop :=
  ∀ (s t : State), s.Inv → step s = .next t → t.Inv

/-- R108, R111: the invariant holds at `State.reset` and at the reset state of every launch whose asset
is given in canonical form and whose parameters are in range. -/
def Obligations.InvariantAtLaunch : Prop :=
  State.reset.Inv ∧
  ∀ (cfg : Config) (asset : Mem) (len : Word),
    cfg.legal = true → asset.wf = true → asset.below len.toNat = true →
      (State.launch cfg asset len).Inv

/-- R108: what `rst` leaves, in whatever state it is asserted, in the registers and as the ports
(R23, R81) show it, and the first STEP after it, whose opcode is `ASSET[0]`. That it keeps the
configuration, the asset and its length is the model's reading of R108 to R111 (DEDUCED, assumption 11).
The scratch buffer is left out: its reset contents are unspecified. -/
def Obligations.ResetLeavesResetState : Prop :=
  ∀ (s t : State) (r : Reply), hostMove .rst s = .next (t, r) →
    t.pos = 0 ∧ t.bw = 0 ∧ t.bh = 0 ∧ t.fw = 0 ∧ t.fh = 0 ∧ t.xb = 0 ∧ t.yb = 0 ∧
    t.geomValid = false ∧ t.faulted = false ∧ t.cause = .none ∧ t.fatal = false ∧
    t.lastMore = false ∧ t.lastOp = 0 ∧ t.lastOpValid = false ∧ t.busy = false ∧
    (∀ i, t.fb.read i = 0x00) ∧
    t.cfg = s.cfg ∧ t.asset = s.asset ∧ t.assetLen = s.assetLen ∧
    (∀ d, readRegister d 0 t = if s.assetLen = 0 then 4 else 0) ∧
    (∀ d n, n ≠ 0 → readRegister d n t = 0) ∧
    (0 < s.assetLen.toNat → ∃ u, step t = .next u ∧ u.lastOpValid = true ∧
      u.lastOp = s.assetByte 0)

/-- R13, R68: `k` STEPs that all return MORE consume at least `k` bytes. -/
def Obligations.MoreStepsConsumeBytes : Prop :=
  ∀ (k : Nat) (s t : State), s.busy = false → s.pos.toNat ≤ s.assetLen.toNat →
    moreSteps k s = some t → s.pos.toNat + k ≤ t.pos.toNat ∧ t.pos.toNat ≤ s.assetLen.toNat

/-- R68, R105, R117: playback ends, cleanly or in a fault. After at most as many MORE STEPs as bytes
remain, a STEP returns END or FAULT. -/
def Obligations.PlaybackEnds : Prop :=
  ∀ (s : State), s.busy = false → s.pos.toNat ≤ s.assetLen.toNat →
    ∃ (k : Nat) (u : State), k ≤ s.assetLen.toNat - s.pos.toNat ∧
      (playsToEnd k s u ∨ playsToFault k s u)

/-! INIT, NOP and the illegal opcodes. -/

/-- R70: INIT with nonzero block dimensions writes the four dimensions, the two block counts and
`geom_valid`, and nothing else: no framebuffer byte (R74), no scratch byte. -/
def Obligations.InitWritesGeometry : Prop :=
  ∀ (bw bh fw fh : Byte) (s : State), bw ≠ 0 → bh ≠ 0 →
    ∃ t, exec (.init bw bh fw fh) s = .next t ∧
      t = { s with
          bw := bw, bh := bh, fw := fw, fh := fh, xb := t.xb, yb := t.yb,
          geomValid := true } ∧
      t.xb.toNat = fw.toNat / bw.toNat ∧ t.yb.toNat = fh.toNat / bh.toNat

/-- R70: INIT with a zero block dimension enters the fault state with ZERO_BLOCK_DIM before any
geometry register is written. -/
def Obligations.InitZeroDimensionFaults : Prop :=
  ∀ (bw bh fw fh : Byte) (s : State), (bw = 0 ∨ bh = 0) →
    exec (.init bw bh fw fh) s = .next { s with
        faulted := true, cause := .zeroBlockDim,
        lastMore := false, busy := false, work := Work.idle }

/-- R70: the whole INIT record, from its bytes: READ_PAST_END at the end of the asset if a body byte
is missing, ZERO_BLOCK_DIM after all five bytes, else the geometry and MORE. -/
def Obligations.InitRecord : Prop :=
  ∀ (s : State) (body : List Byte), s.busy = false → s.faulted = false → s.ahead = 0x00 :: body →
    (body.length < 4 →
      step s = .next { s with
          pos := s.assetLen, lastOp := 0, lastOpValid := true,
          faulted := true, cause := .readPastEnd, lastMore := false, work := Work.idle }) ∧
    (∀ a b c d r, body = a :: b :: c :: d :: r →
      ((a = 0 ∨ b = 0) →
        step s = .next { s with
            pos := s.pos + 5, lastOp := 0, lastOpValid := true,
            faulted := true, cause := .zeroBlockDim, lastMore := false, work := Work.idle }) ∧
      (a ≠ 0 → b ≠ 0 →
        step s = .next { s with
            pos := s.pos + 5, lastOp := 0, lastOpValid := true,
            bw := a, bh := b, fw := c, fh := d,
            xb := BitVec.ofNat 8 (c.toNat / a.toNat), yb := BitVec.ofNat 8 (d.toNat / b.toNat),
            geomValid := true, lastMore := true, work := Work.idle }))

/-- R71, R75: the NOP record: one byte consumed, MORE and so a render point, nothing else; legal in
both decoder states. -/
def Obligations.NopRecord : Prop :=
  ∀ (s : State), exec .nop s = .next s ∧
    (∀ body, s.busy = false → s.faulted = false → s.ahead = 0x02 :: body →
      ∃ t, step s = .next t ∧ t.result = .more ∧ t.renderPoint = true ∧
        t = { s with
            pos := s.pos + 1, lastOp := 0x02, lastOpValid := true, lastMore := true,
            work := Work.idle })

/-- R72: an opcode byte 0x04 to 0xFF: consumed and noted, then UNRECOGNIZED_OPCODE; no body byte is
read and no pixel changes. -/
def Obligations.IllegalRecord : Prop :=
  ∀ (s : State) (op : Byte) (body : List Byte), s.busy = false → s.faulted = false →
    s.ahead = op :: body → 4 ≤ op.toNat →
    ∃ t, step s = .next t ∧ t.result = .fault ∧
      t = { s with
          pos := s.pos + 1, lastOp := op, lastOpValid := true, faulted := true,
          cause := .unrecognizedOpcode, lastMore := false, work := Work.idle }

/-- R72, R92: the meaning of each ILLEGAL row is to enter the fault state with
UNRECOGNIZED_OPCODE. -/
def Obligations.IllegalRaisesUnrecognizedOpcode : Prop :=
  ∀ (op : Byte) (s : State) (i : Instr),
    (i = .illegal04 op ∨ i = .illegal08 op ∨ i = .illegal10 op ∨ i = .illegal20 op ∨
      i = .illegal40 op ∨ i = .illegal80 op) →
    exec i s = .next { s with
        faulted := true, cause := .unrecognizedOpcode, lastMore := false,
        busy := false, work := Work.idle }

/-! The cursor (40_bitstream_cursor.md). -/

/-- R55, R56, R57, R58: at_end, peek_u8, read_u8 and read_u16 (both bytes checked first, the low byte
first: R28's reading of "little-endian", PRESUMED by the spec itself, assumption 8); a faulting read
advances nothing (the spec's decision D18). The last clause is about the model's own `State.ahead`, in
which other statements speak: it lists the asset bytes from `pos` to the end. -/
def Obligations.CursorReads : Prop :=
  ∀ (s : State),
    (s.atEnd = true ↔ s.assetLen.toNat ≤ s.pos.toNat) ∧
    (s.assetLen.toNat ≤ s.pos.toNat →
      peekU8 s = .raised (s.raise .readPastEnd) ∧ readU8 s = .raised (s.raise .readPastEnd)) ∧
    (s.pos.toNat < s.assetLen.toNat →
      peekU8 s = .ok (s.assetByte s.pos.toNat) s ∧
      readU8 s = .ok (s.assetByte s.pos.toNat) { s with pos := s.pos + 1 }) ∧
    (s.assetLen.toNat < s.pos.toNat + 2 → readU16 s = .raised (s.raise .readPastEnd)) ∧
    (s.pos.toNat + 2 ≤ s.assetLen.toNat →
      ∃ v, readU16 s = .ok v { s with pos := s.pos + 2 } ∧
        v.toNat = (s.assetByte s.pos.toNat).toNat + 256 * (s.assetByte (s.pos.toNat + 1)).toNat) ∧
    (∀ c, (s.raise c).pos = s.pos) ∧
    (∀ k, s.ahead[k]? =
      if s.pos.toNat + k < s.assetLen.toNat then some (s.assetByte (s.pos.toNat + k)) else none)

/-! Inflate (41_inflate.md). -/

/-- R61: LIT at a token position writes one copy and nothing else. -/
def Obligations.LitEmitsOneCopy : Prop :=
  ∀ (b : Byte) (s : State), s.work.out < s.work.bodyLen →
    ∃ t, exec (.lit b) s = .next t ∧
      t = { s with scratch := t.scratch, work := { s.work with out := s.work.out + 1 } } ∧
      ∀ a, t.scratch.read a = if a = s.work.out then b else s.scratch.read a

/-- R62: RUN at a token position, within the target, writes `1 + n` copies and nothing else. -/
def Obligations.RunEmitsAllCopies : Prop :=
  ∀ (b n : Byte) (s : State), s.work.out + 1 + n.toNat ≤ s.work.bodyLen →
    ∃ t, exec (.run b n) s = .next t ∧
      t = { s with
          scratch := t.scratch,
          work := { s.work with out := s.work.out + 1 + n.toNat } } ∧
      ∀ a, t.scratch.read a =
        if s.work.out ≤ a ∧ a < s.work.out + 1 + n.toNat then b else s.scratch.read a

/-- R63 (the spec's decision D5): a run past the target faults RUN_OVERRUN, its three bytes consumed
and no byte of it written; a run that ends exactly at the target is legal. -/
def Obligations.RunOverrunFaults : Prop :=
  ∀ (b n : Byte) (s : State), s.work.out < s.work.bodyLen →
    (s.work.bodyLen < s.work.out + 1 + n.toNat →
      exec (.run b n) s = .next { s with
          faulted := true, cause := .runOverrun, lastMore := false,
          busy := false, work := Work.idle } ∧
      ∀ (u : State) (rest : List Byte), u.faulted = false → u.work = s.work →
        decodeToken u.ahead = .instr (.run b n) rest →
        inflateLoop 1 u = .raised { u with
            pos := u.pos + 3, faulted := true, cause := .runOverrun, lastMore := false,
            busy := false, work := Work.idle }) ∧
    (s.work.out + 1 + n.toNat = s.work.bodyLen →
      ∃ t, exec (.run b n) s = .next t ∧ t.faulted = s.faulted ∧ t.cause = s.cause ∧
        t.work.out = t.work.bodyLen)

/-- The opcode table's condition on the rows LIT and RUN: outside a body there is no token, and the
model stops by name (the model's choice, assumption 7). -/
def Obligations.TokenOutsideBodyStops : Prop :=
  ∀ (b n : Byte) (s : State), s.work.bodyLen ≤ s.work.out →
    exec (.lit b) s = .fault .noTokenPosition ∧ exec (.run b n) s = .fault .noTokenPosition

/-- R60, R64, R66: the token fetch reads what the token decoder reads from the bytes at the cursor,
and consumes exactly the token's bytes; a cut-off token faults READ_PAST_END. -/
def Obligations.TokenFetchIsTokenDecode : Prop :=
  ∀ (s : State),
    (∀ (t : Token) (rest : List Byte), decodeToken s.ahead = .instr t.instr rest →
      fetchToken s = .ok t { s with pos := s.pos + BitVec.ofNat 32 (encode t.instr).length }) ∧
    (decodeToken s.ahead = .rejected .noByte → fetchToken s = .raised (s.raise .readPastEnd)) ∧
    (decodeToken s.ahead = .rejected .runCutShort →
      fetchToken s = .raised (State.raise .readPastEnd { s with pos := s.assetLen }))

/-- R60: inside a body, inflate runs the token that stands at the cursor by that token's own
meaning, and goes on unless it faulted. -/
def Obligations.InflateRunsDecodedToken : Prop :=
  ∀ (k : Nat) (s u : State) (t : Token) (rest : List Byte), s.faulted = false →
    s.work.out < s.work.bodyLen → decodeToken s.ahead = .instr t.instr rest →
    exec t.instr { s with pos := s.pos + BitVec.ofNat 32 (encode t.instr).length } = .next u →
    inflateLoop (k + 1) s = if u.faulted then .raised u else inflateLoop k u

/-- R60, R61, R62: a compressed body inflates to what its tokens expand to: the round trip. Exactly
its bytes are consumed, and no scratch byte at or past the target is touched. -/
def Obligations.InflateRoundTrip : Prop :=
  ∀ (s : State) (toks : List Token), tokensAt s s.pos.toNat toks = true →
    (expandTokens toks).length ≤ s.cfg.scratchBytes →
    ∃ t, inflate (expandTokens toks).length s = .ok () t ∧
      t = { s with
          pos := s.pos + BitVec.ofNat 32 (encodeTokens toks).length,
          scratch := t.scratch,
          work := ⟨(expandTokens toks).length, (expandTokens toks).length, 0⟩ } ∧
      ∀ a, t.scratch.read a = ((expandTokens toks)[a]?).getD (s.scratch.read a)

/-- R60, R67: conversely, inflate completes only on a body: the bytes it consumed are tokens that
expand to exactly the target, at least one byte per 256 produced and at most three per byte. -/
def Obligations.InflateCompletesOnlyOnBodies : Prop :=
  ∀ (s t : State) (target : Nat), s.pos.toNat ≤ s.assetLen.toNat →
    inflate target s = .ok () t →
    ∃ toks, tokensAt s s.pos.toNat toks = true ∧ (expandTokens toks).length = target ∧
      target ≤ s.cfg.scratchBytes ∧
      t.pos.toNat = s.pos.toNat + (encodeTokens toks).length ∧
      (encodeTokens toks).length ≤ 3 * target ∧ target ≤ 256 * (encodeTokens toks).length

/-- R65 (the spec's decision D13): a target above the scratch capacity faults SCRATCH_OVERFLOW before
any byte is consumed or written, in inflate and so for both frame records; with the reference capacity
no instruction raises it. -/
def Obligations.ScratchOverflowFaults : Prop :=
  ∀ (s : State) (len : Half),
    (∀ target, s.cfg.scratchBytes < target →
      inflate target s = .raised { s with
          faulted := true, cause := .scratchOverflow,
          lastMore := false, busy := false, work := Work.idle }) ∧
    (s.cfg.scratchBytes < len.toNat →
      exec (.delta len) s = .next { s with
          faulted := true, cause := .scratchOverflow,
          lastMore := false, busy := false, work := Work.idle }) ∧
    (s.cfg.scratchBytes < (s.fw.toNat * s.fh.toNat + 7) / 8 →
      exec .full s = .next { s with
          faulted := true, cause := .scratchOverflow,
          lastMore := false, busy := false, work := Work.idle }) ∧
    (65535 ≤ s.cfg.scratchBytes → ∀ (i : Instr) (t : State), exec i s = .next t →
      t.cause = .scratchOverflow → s.cause = .scratchOverflow)

/-- R57, R60, R62: a body that is cut short by the end of the asset, after a token or inside a run (two
equal bytes and no count byte; a last single byte is a literal, R64), faults READ_PAST_END with the
cursor at the end and no pixel touched. -/
def Obligations.BodyCutShortFaults : Prop :=
  ∀ (s : State) (toks : List Token) (tail : List Byte) (target : Nat),
    tokensAt s s.pos.toNat toks = true →
    (tail = [] ∨ ∃ b, tail = [b, b]) →
    (∀ k b, tail[k]? = some b → s.assetByte (s.pos.toNat + (encodeTokens toks).length + k) = b) →
    s.pos.toNat + (encodeTokens toks).length + tail.length = s.assetLen.toNat →
    (expandTokens toks).length < target → target ≤ s.cfg.scratchBytes →
    ∃ t, inflate target s = .raised t ∧
      t = { s with
          pos := s.assetLen, scratch := t.scratch, faulted := true,
          cause := .readPastEnd, lastMore := false, busy := false, work := Work.idle }

/-- R88, R60: a fault in inflate is one of three causes and leaves the framebuffer, the geometry and
the scratch bytes from the target up as they were; and it is all that its frame record does. -/
def Obligations.InflateFaultLeavesFramebuffer : Prop :=
  ∀ (s t : State) (target : Nat), inflate target s = .raised t →
    (t.cause = .scratchOverflow ∨ t.cause = .readPastEnd ∨ t.cause = .runOverrun) ∧
    t = { s with
        pos := t.pos, scratch := t.scratch, faulted := true, cause := t.cause,
        lastMore := false, busy := false, work := Work.idle } ∧
    (∀ a, target ≤ a → t.scratch.read a = s.scratch.read a) ∧
    (target = s.fullLen → exec .full s = .next t) ∧
    (∀ len : Half, target = len.toNat → exec (.delta len) s = .next t)

/-! Framebuffer (43_framebuffer.md). -/

/-- R78, R79: in the grid, fb_get gives the pixel's bit, and fb_set writes its one pixel and no other,
in one byte; outside it both fault FB_BOUNDS with nothing written (the spec's decision D11). -/
def Obligations.SetWritesOnePixel : Prop :=
  ∀ (s : State) (x y : Nat) (v : Bool),
    (x < s.cfg.fbStride → y < 8 * s.cfg.fbPages →
      fbGet x y s =
        .ok ((s.fb.read (x + (y / 8) * s.cfg.fbStride)).getLsbD (y % 8)) s ∧
      ∃ t, fbSet x y v s = .ok () t ∧ t = { s with fb := t.fb } ∧ t.pixel x y = v ∧
        (∀ x' y', x' < s.cfg.fbStride → (x' ≠ x ∨ y' ≠ y) → t.pixel x' y' = s.pixel x' y') ∧
        (∀ a, a ≠ x + (y / 8) * s.cfg.fbStride → t.fb.read a = s.fb.read a)) ∧
    ((s.cfg.fbStride ≤ x ∨ 8 * s.cfg.fbPages ≤ y) →
      fbSet x y v s = .raised (s.raise .fbBounds) ∧
      fbGet x y s = .raised (s.raise .fbBounds))

/-- R80 (marked derived by the spec): fb_invert xors the pixel's one bit into its byte, so twice
restores it; outside the grid it faults FB_BOUNDS with nothing written. -/
def Obligations.InvertTogglesOnePixel : Prop :=
  ∀ (s : State) (x y : Nat),
    (x < s.cfg.fbStride → y < 8 * s.cfg.fbPages →
      ∃ t u, fbInvert x y s = .ok () t ∧ t = { s with fb := t.fb } ∧
        (∀ a, t.fb.read a = if a = x + (y / 8) * s.cfg.fbStride
          then s.fb.read a ^^^ (1#8 <<< (y % 8)) else s.fb.read a) ∧
        fbInvert x y t = .ok () u ∧ u = { s with fb := u.fb } ∧
        (∀ a, u.fb.read a = s.fb.read a)) ∧
    ((s.cfg.fbStride ≤ x ∨ 8 * s.cfg.fbPages ≤ y) →
      fbInvert x y s = .raised (s.raise .fbBounds))

/-- R84 (marked derived by the spec) and R77: with consistent geometry the traversal visits each pixel
of the block grid once, and its mirror lies in columns 1 to `fw` and rows 1 to `fh`. -/
def Obligations.TraversalVisitsEachPixelOnce : Prop :=
  ∀ (s : State), s.geomOk = true →
    s.visited.Nodup ∧
    s.visited.length = (s.xb.toNat * s.bw.toNat) * (s.yb.toNat * s.bh.toNat) ∧
    s.visited.length ≤ s.fw.toNat * s.fh.toNat ∧
    (∀ x y, (x, y) ∈ s.visited ↔ x < s.xb.toNat * s.bw.toNat ∧ y < s.yb.toNat * s.bh.toNat) ∧
    (∀ p ∈ s.visited, 1 ≤ (s.mirror p).1 ∧ (s.mirror p).1 ≤ s.fw.toNat ∧
      1 ≤ (s.mirror p).2 ∧ (s.mirror p).2 ≤ s.fh.toNat)

/-- The order of the traversal. That "raster order" is rows outermost is PRESUMED by the spec itself
(R83, "from general knowledge, not in source"; decision D15; assumption 9). Block `(bx, by)` stands at
place `by * xb + bx`, pixel `(px, py)` of a block at place `py * bw + px` of it, and pixel number `k` of
R49 at place `k` of the whole walk. -/
def Obligations.TraversalOrder : Prop :=
  ∀ (s : State),
    (∀ bx by_, bx < s.xb.toNat → by_ < s.yb.toNat →
      s.blocks[by_ * s.xb.toNat + bx]? = some (bx, by_) ∧
      ∀ px py, px < s.bw.toNat → py < s.bh.toNat →
        (s.blockPixels (bx, by_))[py * s.bw.toNat + px]? =
          some (bx * s.bw.toNat + px, by_ * s.bh.toNat + py)) ∧
    (∀ x y, x < s.xb.toNat * s.bw.toNat → y < s.yb.toNat * s.bh.toNat →
      s.visited[pixelNumber s x y]? = some (x, y))

/-! FULL and DELTA (44_frame_decode.md). -/

/-- R86: FULL on a body of the implicit length, in a storage that holds the mirror `(fw, fh)` of the
first pixel: each visited pixel's mirror becomes the inverse of its body bit, and every other pixel
and byte of the framebuffer, and every register but `pos`, is unchanged. Which bit is a pixel's follows
the order of the walk, rows outermost: PRESUMED by the spec itself (R83, assumption 9). -/
def Obligations.FullSetsMirroredPixels : Prop :=
  ∀ (s : State) (toks : List Token), s.geomOk = true →
    tokensAt s s.pos.toNat toks = true → (expandTokens toks).length = s.fullLen →
    s.fullLen ≤ s.cfg.scratchBytes →
    (s.visited = [] ∨ (s.fw.toNat < s.cfg.fbStride ∧ s.fh.toNat < 8 * s.cfg.fbPages)) →
    ∃ t, exec .full s = .next t ∧
      t = { s with
          pos := s.pos + BitVec.ofNat 32 (encodeTokens toks).length,
          scratch := t.scratch, fb := t.fb,
          work := ⟨s.fullLen, s.fullLen, s.visited.length⟩ } ∧
      (∀ x y, x < s.xb.toNat * s.bw.toNat → y < s.yb.toNat * s.bh.toNat →
        t.pixel (s.fw.toNat - x) (s.fh.toNat - y) =
          !((bodyBits (expandTokens toks)).getD (pixelNumber s x y) false)) ∧
      (∀ mx my, mx < s.cfg.fbStride → (∀ p ∈ s.visited, s.mirror p ≠ (mx, my)) →
        t.pixel mx my = s.pixel mx my) ∧
      (∀ a, (∀ p ∈ s.visited, a ≠ s.mirrorIndex p) → t.fb.read a = s.fb.read a) ∧
      (∀ a, s.fullLen ≤ a → t.scratch.read a = s.scratch.read a)

/-- R33, R86, R89: FULL in a storage that does not hold the mirror of the first pixel faults
FB_BOUNDS at that pixel, the body consumed and no pixel written. -/
def Obligations.FullOutsideStorageFaults : Prop :=
  ∀ (s : State) (toks : List Token), s.geomOk = true →
    tokensAt s s.pos.toNat toks = true → (expandTokens toks).length = s.fullLen →
    s.fullLen ≤ s.cfg.scratchBytes → s.visited ≠ [] →
    (s.cfg.fbStride ≤ s.fw.toNat ∨ 8 * s.cfg.fbPages ≤ s.fh.toNat) →
    ∃ t, exec .full s = .next t ∧
      t = { s with
          pos := s.pos + BitVec.ofNat 32 (encodeTokens toks).length,
          scratch := t.scratch, faulted := true, cause := .fbBounds,
          lastMore := false, busy := false, work := Work.idle }

/-- R86, R84: FULL never faults BODY_UNDERRUN, the body holding a bit for every visited pixel. -/
def Obligations.FullNeverUnderruns : Prop :=
  ∀ (s t : State), s.geomOk = true → s.faulted = false → exec .full s = .next t →
    t.faulted = true →
    t.cause = .scratchOverflow ∨ t.cause = .readPastEnd ∨ t.cause = .runOverrun ∨
      t.cause = .fbBounds

/-- R86, R82, R92: the frame of FULL, completed or faulted: only `pos`, the scratch bytes below the
target, the framebuffer bytes that hold the mirror of a visited pixel, the working values and, if it
faulted, the fault registers. -/
def Obligations.FullFrame : Prop :=
  ∀ (s t : State), s.faulted = false → exec .full s = .next t →
    t = { s with
        pos := t.pos, scratch := t.scratch, fb := t.fb, work := t.work,
        faulted := t.faulted, cause := t.cause, lastMore := t.lastMore, busy := t.busy } ∧
    (t.faulted = false → t.cause = s.cause ∧ t.lastMore = s.lastMore ∧ t.busy = s.busy) ∧
    (t.faulted = true → t.cause ≠ .none ∧ t.lastMore = false ∧ t.busy = false) ∧
    (∀ a, (∀ p ∈ s.visited, a ≠ s.mirrorIndex p) → t.fb.read a = s.fb.read a) ∧
    (∀ a, s.fullLen ≤ a → t.scratch.read a = s.scratch.read a)

/-- R87, R50: DELTA on a body of its length whose flags suffice, every toggled mirror in the
storage: exactly the mirrors of the pixels its flags name are toggled, and every other pixel and byte of
the framebuffer, and every register but `pos`, is unchanged. Which flag is a pixel's follows the order
of the walk, rows outermost: PRESUMED by the spec itself (R83, D15, assumption 9). -/
def Obligations.DeltaTogglesFlaggedPixels : Prop :=
  ∀ (s : State) (len : Half) (toks : List Token) (tg : List (Nat × Nat)), s.geomOk = true →
    tokensAt s s.pos.toNat toks = true → (expandTokens toks).length = len.toNat →
    len.toNat ≤ s.cfg.scratchBytes →
    s.deltaTrace (expandTokens toks) = (tg, true) →
    (∀ p ∈ tg, s.inGrid (s.mirror p).1 (s.mirror p).2 = true) →
    ∃ t, exec (.delta len) s = .next t ∧
      t = { s with
          pos := s.pos + BitVec.ofNat 32 (encodeTokens toks).length,
          scratch := t.scratch, fb := t.fb, work := t.work } ∧
      (∀ mx my, mx < s.cfg.fbStride →
        t.pixel mx my = (s.pixel mx my ^^ decide ((mx, my) ∈ tg.map s.mirror))) ∧
      (∀ a, (∀ p ∈ tg, a ≠ s.mirrorIndex p) → t.fb.read a = s.fb.read a) ∧
      (∀ a, len.toNat ≤ a → t.scratch.read a = s.scratch.read a)

/-- R85, R87, R89, R94: DELTA on a body of its length whose walk faults, with the compressed body
consumed. The first flagged pixel whose mirror lies outside the storage faults FB_BOUNDS, that access
writing nothing; if there is none before the bits run out, that faults BODY_UNDERRUN. The pixels flagged
before the fault, and no others, have been toggled (a mirror flagged an even number of times, in states
without consistent geometry, is as before). The order of the walk is PRESUMED by the spec itself (R83,
D15, assumption 9). -/
def Obligations.DeltaUnderrunFaults : Prop :=
  ∀ (s : State) (len : Half) (toks : List Token) (tg done : List (Nat × Nat)) (enough : Bool)
    (c : Cause),
    tokensAt s s.pos.toNat toks = true → (expandTokens toks).length = len.toNat →
    len.toNat ≤ s.cfg.scratchBytes →
    s.deltaTrace (expandTokens toks) = (tg, enough) → s.beforeOutside tg = done →
    ((c = .fbBounds ∧ done ≠ tg) ∨ (c = .bodyUnderrun ∧ done = tg ∧ enough = false)) →
    ∃ t, exec (.delta len) s = .next t ∧
      t = { s with
          pos := s.pos + BitVec.ofNat 32 (encodeTokens toks).length,
          scratch := t.scratch, fb := t.fb, faulted := true, cause := c,
          lastMore := false, busy := false, work := Work.idle } ∧
      (∀ mx my, mx < s.cfg.fbStride →
        t.pixel mx my =
          (s.pixel mx my ^^ decide ((done.map s.mirror).count (mx, my) % 2 = 1))) ∧
      (∀ a, (∀ p ∈ done, a ≠ s.mirrorIndex p) → t.fb.read a = s.fb.read a) ∧
      (∀ a, len.toNat ≤ a → t.scratch.read a = s.scratch.read a)

/-- R87: a DELTA of length 0 with at least one block faults BODY_UNDERRUN on the first block flag,
nothing consumed and nothing written. -/
def Obligations.EmptyDeltaUnderruns : Prop :=
  ∀ (s : State), s.xb ≠ 0 → s.yb ≠ 0 →
    exec (.delta 0) s = .next { s with
        faulted := true, cause := .bodyUnderrun,
        lastMore := false, busy := false, work := Work.idle }

/-- R87, R82, R92: the frame of DELTA, completed or faulted. -/
def Obligations.DeltaFrame : Prop :=
  ∀ (s t : State) (len : Half), s.faulted = false → exec (.delta len) s = .next t →
    t = { s with
        pos := t.pos, scratch := t.scratch, fb := t.fb, work := t.work,
        faulted := t.faulted, cause := t.cause, lastMore := t.lastMore, busy := t.busy } ∧
    (t.faulted = false → t.cause = s.cause ∧ t.lastMore = s.lastMore ∧ t.busy = s.busy) ∧
    (t.faulted = true → t.cause ≠ .none ∧ t.lastMore = false ∧ t.busy = false) ∧
    (∀ a, (∀ p ∈ s.visited, a ≠ s.mirrorIndex p) → t.fb.read a = s.fb.read a) ∧
    (∀ a, len.toNat ≤ a → t.scratch.read a = s.scratch.read a)

/-- R87 (the source's toggle idempotence): the same DELTA applied again, its body read again from
where it stood, completes and restores every framebuffer byte. -/
def Obligations.DeltaTwiceRestores : Prop :=
  ∀ (s t : State) (len : Half), s.faulted = false → exec (.delta len) s = .next t →
    t.faulted = false →
    ∃ u, exec (.delta len) { t with pos := s.pos } = .next u ∧ u.faulted = false ∧
      u.pos = t.pos ∧ ∀ a, u.fb.read a = s.fb.read a

/-- R73 (the spec's decision D7): records before any INIT are legal. FULL has target 0, consumes no
body and visits no block; DELTA inflates its body, with all the faults of inflate, and visits no block;
no pixel changes and the state stays UNINITIALIZED; NOP does nothing. -/
def Obligations.FrameRecordsBeforeInit : Prop :=
  ∀ (s : State), s.geomOk = true → s.geomValid = false →
    s.fullLen = 0 ∧ s.visited = [] ∧ exec .nop s = .next s ∧
    (∃ t, exec .full s = .next t ∧ t = { s with work := ⟨0, 0, 0⟩ }) ∧
    (∀ (len : Half) (toks : List Token), tokensAt s s.pos.toNat toks = true →
      (expandTokens toks).length = len.toNat → len.toNat ≤ s.cfg.scratchBytes →
      ∃ t, exec (.delta len) s = .next t ∧
        t = { s with
            pos := s.pos + BitVec.ofNat 32 (encodeTokens toks).length,
            scratch := t.scratch, work := ⟨len.toNat, len.toNat, 0⟩ }) ∧
    (∀ (len : Half) (u : State), inflate len.toNat s = .raised u →
      exec (.delta len) s = .next u) ∧
    (∀ (len : Half) (t : State), exec (.delta len) s = .next t →
      t.fb = s.fb ∧ t.geomValid = false)

/-- R21: the scratch buffer is unobservable: whatever it holds before a STEP, the STEP does the same
to everything else. (So the model's choice of its reset contents, assumption 4, tells nothing.) -/
def Obligations.ScratchIsUnobservable : Prop :=
  ∀ (s t : State) (m : Mem), step s = .next t →
    ∃ m', step { s with scratch := m } = .next { t with scratch := m' }

/-! Host interface. -/

/-- R23, R91: the register map, read while `busy = 0`. -/
def Obligations.RegisterMap : Prop :=
  ∀ (s : State) (d : Nat), s.busy = false →
    ((readRegister d 0 s).getLsbD 0 = false ∧ (readRegister d 0 s).getLsbD 1 = s.geomValid ∧
      (readRegister d 0 s).getLsbD 2 = decide (s.assetLen.toNat ≤ s.pos.toNat) ∧
      (readRegister d 0 s).getLsbD 3 = s.faulted ∧ (readRegister d 0 s).getLsbD 4 = s.lastMore ∧
      (readRegister d 0 s).toNat < 32) ∧
    ((readRegister d 1 s).toNat = match s.cause with
      | .none => 0
      | .unrecognizedOpcode => 1
      | .readPastEnd => 2
      | .runOverrun => 3
      | .zeroBlockDim => 4
      | .bodyUnderrun => 5
      | .fbBounds => 6
      | .scratchOverflow => 7) ∧
    readRegister d 2 s = s.pos ∧
    (readRegister d 3 s).toNat =
      s.bw.toNat + 256 * s.bh.toNat + 65536 * s.fw.toNat + 16777216 * s.fh.toNat ∧
    (readRegister d 4 s).toNat = s.xb.toNat + 256 * s.yb.toNat ∧
    (readRegister d 5 s).toNat = s.lastOp.toNat + 256 * s.lastOpValid.toNat

/-- R24: the port is read-only. Numbers 6 and above read 0, a write is ignored, a read changes
nothing, and only a STEP request and reset change the block's state. -/
def Obligations.PortsAreReadOnly : Prop :=
  ∀ (s : State),
    (∀ d n, s.busy = false → 6 ≤ n → readRegister d n s = 0) ∧
    (∀ (m : HostMove) (t : State) (r : Reply), hostMove m s = .next (t, r) →
      m = .rst ∨ (∃ a n, m = .rstWith a n) ∨ m = .stepReq ∨ t = s)

/-- R81: the display port: `FB[i]` inside the storage, 0x00 outside; a render is all `FB_BYTES`
bytes in index order; no side effect. -/
def Obligations.DisplayPort : Prop :=
  ∀ (s : State) (d : Nat), s.busy = false →
    (∀ i, i < s.cfg.fbStride * s.cfg.fbPages → readDisplay d i s = s.fb.read i) ∧
    (∀ i, s.cfg.fbStride * s.cfg.fbPages ≤ i → readDisplay d i s = 0x00) ∧
    (renderBytes d s).length = s.cfg.fbStride * s.cfg.fbPages ∧
    (∀ i, i < s.cfg.fbStride * s.cfg.fbPages → (renderBytes d s)[i]? = some (s.fb.read i)) ∧
    (∀ i, hostMove (.readFb d i) s = .next (s, .byte (readDisplay d i s)))

/-! The assembly notation (30_encoding.md R53, R54). -/

/-- R53, R66: the bytes an assembler emits for the tokens of a body, with the byte that follows them
in the asset, are read back as those tokens. -/
def Obligations.AssembledBodyReadsBack : Prop :=
  ∀ (ts : List AsmToken) (next : Option Byte) (us : List Token) (s : State) (a : Nat),
    asmTokens ts next = .ok us →
    a + (encodeTokens us).length ≤ s.assetLen.toNat →
    (∀ k b, (encodeTokens us)[k]? = some b → s.assetByte (a + k) = b) →
    (∀ b, next = some b → s.assetByte (a + (encodeTokens us).length) = b) →
    (next = none → s.assetLen.toNat = a + (encodeTokens us).length) →
    tokensAt s a us = true

/-- R54: `BYTES` expands to tokens for exactly its byte sequence. -/
def Obligations.BytesPseudoTokenExpands : Prop :=
  ∀ (vs : List Byte) (next : Option Byte),
    expandTokens (bytesTokens (groupEqual vs) next) = vs
end

