-- ==== Sys2Proof/Laws/State.lean ====
section
/-!
SUPPORT. What each named update does to each field of the state, true by unfolding once.
-/

namespace Sys2Proof.Machine

/-! `State.raise` (R92). -/

@[simp] theorem State.raise_cfg (c : Cause) (s : State) : (s.raise c).cfg = s.cfg := rfl
@[simp] theorem State.raise_asset (c : Cause) (s : State) : (s.raise c).asset = s.asset := rfl
@[simp] theorem State.raise_assetLen (c : Cause) (s : State) : (s.raise c).assetLen = s.assetLen := rfl
@[simp] theorem State.raise_pos (c : Cause) (s : State) : (s.raise c).pos = s.pos := rfl
@[simp] theorem State.raise_bw (c : Cause) (s : State) : (s.raise c).bw = s.bw := rfl
@[simp] theorem State.raise_bh (c : Cause) (s : State) : (s.raise c).bh = s.bh := rfl
@[simp] theorem State.raise_fw (c : Cause) (s : State) : (s.raise c).fw = s.fw := rfl
@[simp] theorem State.raise_fh (c : Cause) (s : State) : (s.raise c).fh = s.fh := rfl
@[simp] theorem State.raise_xb (c : Cause) (s : State) : (s.raise c).xb = s.xb := rfl
@[simp] theorem State.raise_yb (c : Cause) (s : State) : (s.raise c).yb = s.yb := rfl
@[simp] theorem State.raise_geomValid (c : Cause) (s : State) : (s.raise c).geomValid = s.geomValid := rfl
@[simp] theorem State.raise_faulted (c : Cause) (s : State) : (s.raise c).faulted = true := rfl
@[simp] theorem State.raise_cause (c : Cause) (s : State) : (s.raise c).cause = c := rfl
@[simp] theorem State.raise_lastMore (c : Cause) (s : State) : (s.raise c).lastMore = false := rfl
@[simp] theorem State.raise_lastOp (c : Cause) (s : State) : (s.raise c).lastOp = s.lastOp := rfl
@[simp] theorem State.raise_lastOpValid (c : Cause) (s : State) : (s.raise c).lastOpValid = s.lastOpValid := rfl
@[simp] theorem State.raise_busy (c : Cause) (s : State) : (s.raise c).busy = false := rfl
@[simp] theorem State.raise_fb (c : Cause) (s : State) : (s.raise c).fb = s.fb := rfl
@[simp] theorem State.raise_scratch (c : Cause) (s : State) : (s.raise c).scratch = s.scratch := rfl
@[simp] theorem State.raise_work (c : Cause) (s : State) : (s.raise c).work = Work.idle := rfl

/-! `State.advance` (R57, R58). -/

@[simp] theorem State.advance_cfg (n : Nat) (s : State) : (s.advance n).cfg = s.cfg := rfl
@[simp] theorem State.advance_asset (n : Nat) (s : State) : (s.advance n).asset = s.asset := rfl
@[simp] theorem State.advance_assetLen (n : Nat) (s : State) : (s.advance n).assetLen = s.assetLen := rfl
@[simp] theorem State.advance_pos (n : Nat) (s : State) : (s.advance n).pos = s.pos + BitVec.ofNat 32 n := rfl
@[simp] theorem State.advance_bw (n : Nat) (s : State) : (s.advance n).bw = s.bw := rfl
@[simp] theorem State.advance_bh (n : Nat) (s : State) : (s.advance n).bh = s.bh := rfl
@[simp] theorem State.advance_fw (n : Nat) (s : State) : (s.advance n).fw = s.fw := rfl
@[simp] theorem State.advance_fh (n : Nat) (s : State) : (s.advance n).fh = s.fh := rfl
@[simp] theorem State.advance_xb (n : Nat) (s : State) : (s.advance n).xb = s.xb := rfl
@[simp] theorem State.advance_yb (n : Nat) (s : State) : (s.advance n).yb = s.yb := rfl
@[simp] theorem State.advance_geomValid (n : Nat) (s : State) : (s.advance n).geomValid = s.geomValid := rfl
@[simp] theorem State.advance_faulted (n : Nat) (s : State) : (s.advance n).faulted = s.faulted := rfl
@[simp] theorem State.advance_cause (n : Nat) (s : State) : (s.advance n).cause = s.cause := rfl
@[simp] theorem State.advance_lastMore (n : Nat) (s : State) : (s.advance n).lastMore = s.lastMore := rfl
@[simp] theorem State.advance_lastOp (n : Nat) (s : State) : (s.advance n).lastOp = s.lastOp := rfl
@[simp] theorem State.advance_lastOpValid (n : Nat) (s : State) : (s.advance n).lastOpValid = s.lastOpValid := rfl
@[simp] theorem State.advance_busy (n : Nat) (s : State) : (s.advance n).busy = s.busy := rfl
@[simp] theorem State.advance_fb (n : Nat) (s : State) : (s.advance n).fb = s.fb := rfl
@[simp] theorem State.advance_scratch (n : Nat) (s : State) : (s.advance n).scratch = s.scratch := rfl
@[simp] theorem State.advance_work (n : Nat) (s : State) : (s.advance n).work = s.work := rfl

/-! `State.noteOpcode` (R18). -/

@[simp] theorem State.noteOpcode_cfg (op : Byte) (s : State) : (s.noteOpcode op).cfg = s.cfg := rfl
@[simp] theorem State.noteOpcode_asset (op : Byte) (s : State) : (s.noteOpcode op).asset = s.asset := rfl
@[simp] theorem State.noteOpcode_assetLen (op : Byte) (s : State) : (s.noteOpcode op).assetLen = s.assetLen := rfl
@[simp] theorem State.noteOpcode_pos (op : Byte) (s : State) : (s.noteOpcode op).pos = s.pos := rfl
@[simp] theorem State.noteOpcode_bw (op : Byte) (s : State) : (s.noteOpcode op).bw = s.bw := rfl
@[simp] theorem State.noteOpcode_bh (op : Byte) (s : State) : (s.noteOpcode op).bh = s.bh := rfl
@[simp] theorem State.noteOpcode_fw (op : Byte) (s : State) : (s.noteOpcode op).fw = s.fw := rfl
@[simp] theorem State.noteOpcode_fh (op : Byte) (s : State) : (s.noteOpcode op).fh = s.fh := rfl
@[simp] theorem State.noteOpcode_xb (op : Byte) (s : State) : (s.noteOpcode op).xb = s.xb := rfl
@[simp] theorem State.noteOpcode_yb (op : Byte) (s : State) : (s.noteOpcode op).yb = s.yb := rfl
@[simp] theorem State.noteOpcode_geomValid (op : Byte) (s : State) : (s.noteOpcode op).geomValid = s.geomValid := rfl
@[simp] theorem State.noteOpcode_faulted (op : Byte) (s : State) : (s.noteOpcode op).faulted = s.faulted := rfl
@[simp] theorem State.noteOpcode_cause (op : Byte) (s : State) : (s.noteOpcode op).cause = s.cause := rfl
@[simp] theorem State.noteOpcode_lastMore (op : Byte) (s : State) : (s.noteOpcode op).lastMore = s.lastMore := rfl
@[simp] theorem State.noteOpcode_lastOp (op : Byte) (s : State) : (s.noteOpcode op).lastOp = op := rfl
@[simp] theorem State.noteOpcode_lastOpValid (op : Byte) (s : State) : (s.noteOpcode op).lastOpValid = true := rfl
@[simp] theorem State.noteOpcode_busy (op : Byte) (s : State) : (s.noteOpcode op).busy = s.busy := rfl
@[simp] theorem State.noteOpcode_fb (op : Byte) (s : State) : (s.noteOpcode op).fb = s.fb := rfl
@[simp] theorem State.noteOpcode_scratch (op : Byte) (s : State) : (s.noteOpcode op).scratch = s.scratch := rfl
@[simp] theorem State.noteOpcode_work (op : Byte) (s : State) : (s.noteOpcode op).work = s.work := rfl

/-! `State.accept` (R19). -/

@[simp] theorem State.accept_cfg (s : State) : s.accept.cfg = s.cfg := rfl
@[simp] theorem State.accept_asset (s : State) : s.accept.asset = s.asset := rfl
@[simp] theorem State.accept_assetLen (s : State) : s.accept.assetLen = s.assetLen := rfl
@[simp] theorem State.accept_pos (s : State) : s.accept.pos = s.pos := rfl
@[simp] theorem State.accept_bw (s : State) : s.accept.bw = s.bw := rfl
@[simp] theorem State.accept_bh (s : State) : s.accept.bh = s.bh := rfl
@[simp] theorem State.accept_fw (s : State) : s.accept.fw = s.fw := rfl
@[simp] theorem State.accept_fh (s : State) : s.accept.fh = s.fh := rfl
@[simp] theorem State.accept_xb (s : State) : s.accept.xb = s.xb := rfl
@[simp] theorem State.accept_yb (s : State) : s.accept.yb = s.yb := rfl
@[simp] theorem State.accept_geomValid (s : State) : s.accept.geomValid = s.geomValid := rfl
@[simp] theorem State.accept_faulted (s : State) : s.accept.faulted = s.faulted := rfl
@[simp] theorem State.accept_cause (s : State) : s.accept.cause = s.cause := rfl
@[simp] theorem State.accept_lastMore (s : State) : s.accept.lastMore = s.lastMore := rfl
@[simp] theorem State.accept_lastOp (s : State) : s.accept.lastOp = s.lastOp := rfl
@[simp] theorem State.accept_lastOpValid (s : State) : s.accept.lastOpValid = s.lastOpValid := rfl
@[simp] theorem State.accept_busy (s : State) : s.accept.busy = true := rfl
@[simp] theorem State.accept_fb (s : State) : s.accept.fb = s.fb := rfl
@[simp] theorem State.accept_scratch (s : State) : s.accept.scratch = s.scratch := rfl
@[simp] theorem State.accept_work (s : State) : s.accept.work = s.work := rfl

/-! `State.endOfStream` (R68). -/

@[simp] theorem State.endOfStream_cfg (s : State) : s.endOfStream.cfg = s.cfg := rfl
@[simp] theorem State.endOfStream_asset (s : State) : s.endOfStream.asset = s.asset := rfl
@[simp] theorem State.endOfStream_assetLen (s : State) : s.endOfStream.assetLen = s.assetLen := rfl
@[simp] theorem State.endOfStream_pos (s : State) : s.endOfStream.pos = s.pos := rfl
@[simp] theorem State.endOfStream_bw (s : State) : s.endOfStream.bw = s.bw := rfl
@[simp] theorem State.endOfStream_bh (s : State) : s.endOfStream.bh = s.bh := rfl
@[simp] theorem State.endOfStream_fw (s : State) : s.endOfStream.fw = s.fw := rfl
@[simp] theorem State.endOfStream_fh (s : State) : s.endOfStream.fh = s.fh := rfl
@[simp] theorem State.endOfStream_xb (s : State) : s.endOfStream.xb = s.xb := rfl
@[simp] theorem State.endOfStream_yb (s : State) : s.endOfStream.yb = s.yb := rfl
@[simp] theorem State.endOfStream_geomValid (s : State) : s.endOfStream.geomValid = s.geomValid := rfl
@[simp] theorem State.endOfStream_faulted (s : State) : s.endOfStream.faulted = s.faulted := rfl
@[simp] theorem State.endOfStream_cause (s : State) : s.endOfStream.cause = s.cause := rfl
@[simp] theorem State.endOfStream_lastMore (s : State) : s.endOfStream.lastMore = false := rfl
@[simp] theorem State.endOfStream_lastOp (s : State) : s.endOfStream.lastOp = s.lastOp := rfl
@[simp] theorem State.endOfStream_lastOpValid (s : State) : s.endOfStream.lastOpValid = s.lastOpValid := rfl
@[simp] theorem State.endOfStream_busy (s : State) : s.endOfStream.busy = false := rfl
@[simp] theorem State.endOfStream_fb (s : State) : s.endOfStream.fb = s.fb := rfl
@[simp] theorem State.endOfStream_scratch (s : State) : s.endOfStream.scratch = s.scratch := rfl
@[simp] theorem State.endOfStream_work (s : State) : s.endOfStream.work = s.work := rfl

/-! `State.returnMore` (R68). -/

@[simp] theorem State.returnMore_cfg (s : State) : s.returnMore.cfg = s.cfg := rfl
@[simp] theorem State.returnMore_asset (s : State) : s.returnMore.asset = s.asset := rfl
@[simp] theorem State.returnMore_assetLen (s : State) : s.returnMore.assetLen = s.assetLen := rfl
@[simp] theorem State.returnMore_pos (s : State) : s.returnMore.pos = s.pos := rfl
@[simp] theorem State.returnMore_bw (s : State) : s.returnMore.bw = s.bw := rfl
@[simp] theorem State.returnMore_bh (s : State) : s.returnMore.bh = s.bh := rfl
@[simp] theorem State.returnMore_fw (s : State) : s.returnMore.fw = s.fw := rfl
@[simp] theorem State.returnMore_fh (s : State) : s.returnMore.fh = s.fh := rfl
@[simp] theorem State.returnMore_xb (s : State) : s.returnMore.xb = s.xb := rfl
@[simp] theorem State.returnMore_yb (s : State) : s.returnMore.yb = s.yb := rfl
@[simp] theorem State.returnMore_geomValid (s : State) : s.returnMore.geomValid = s.geomValid := rfl
@[simp] theorem State.returnMore_faulted (s : State) : s.returnMore.faulted = s.faulted := rfl
@[simp] theorem State.returnMore_cause (s : State) : s.returnMore.cause = s.cause := rfl
@[simp] theorem State.returnMore_lastMore (s : State) : s.returnMore.lastMore = true := rfl
@[simp] theorem State.returnMore_lastOp (s : State) : s.returnMore.lastOp = s.lastOp := rfl
@[simp] theorem State.returnMore_lastOpValid (s : State) : s.returnMore.lastOpValid = s.lastOpValid := rfl
@[simp] theorem State.returnMore_busy (s : State) : s.returnMore.busy = false := rfl
@[simp] theorem State.returnMore_fb (s : State) : s.returnMore.fb = s.fb := rfl
@[simp] theorem State.returnMore_scratch (s : State) : s.returnMore.scratch = s.scratch := rfl
@[simp] theorem State.returnMore_work (s : State) : s.returnMore.work = Work.idle := rfl

/-! `State.setGeometry` (R70). -/

@[simp] theorem State.setGeometry_cfg (a b c d : Byte) (s : State) : (s.setGeometry a b c d).cfg = s.cfg := rfl
@[simp] theorem State.setGeometry_asset (a b c d : Byte) (s : State) : (s.setGeometry a b c d).asset = s.asset := rfl
@[simp] theorem State.setGeometry_assetLen (a b c d : Byte) (s : State) : (s.setGeometry a b c d).assetLen = s.assetLen := rfl
@[simp] theorem State.setGeometry_pos (a b c d : Byte) (s : State) : (s.setGeometry a b c d).pos = s.pos := rfl
@[simp] theorem State.setGeometry_bw (a b c d : Byte) (s : State) : (s.setGeometry a b c d).bw = a := rfl
@[simp] theorem State.setGeometry_bh (a b c d : Byte) (s : State) : (s.setGeometry a b c d).bh = b := rfl
@[simp] theorem State.setGeometry_fw (a b c d : Byte) (s : State) : (s.setGeometry a b c d).fw = c := rfl
@[simp] theorem State.setGeometry_fh (a b c d : Byte) (s : State) : (s.setGeometry a b c d).fh = d := rfl
@[simp] theorem State.setGeometry_xb (a b c d : Byte) (s : State) : (s.setGeometry a b c d).xb = c / a := rfl
@[simp] theorem State.setGeometry_yb (a b c d : Byte) (s : State) : (s.setGeometry a b c d).yb = d / b := rfl
@[simp] theorem State.setGeometry_geomValid (a b c d : Byte) (s : State) : (s.setGeometry a b c d).geomValid = true := rfl
@[simp] theorem State.setGeometry_faulted (a b c d : Byte) (s : State) : (s.setGeometry a b c d).faulted = s.faulted := rfl
@[simp] theorem State.setGeometry_cause (a b c d : Byte) (s : State) : (s.setGeometry a b c d).cause = s.cause := rfl
@[simp] theorem State.setGeometry_lastMore (a b c d : Byte) (s : State) : (s.setGeometry a b c d).lastMore = s.lastMore := rfl
@[simp] theorem State.setGeometry_lastOp (a b c d : Byte) (s : State) : (s.setGeometry a b c d).lastOp = s.lastOp := rfl
@[simp] theorem State.setGeometry_lastOpValid (a b c d : Byte) (s : State) : (s.setGeometry a b c d).lastOpValid = s.lastOpValid := rfl
@[simp] theorem State.setGeometry_busy (a b c d : Byte) (s : State) : (s.setGeometry a b c d).busy = s.busy := rfl
@[simp] theorem State.setGeometry_fb (a b c d : Byte) (s : State) : (s.setGeometry a b c d).fb = s.fb := rfl
@[simp] theorem State.setGeometry_scratch (a b c d : Byte) (s : State) : (s.setGeometry a b c d).scratch = s.scratch := rfl
@[simp] theorem State.setGeometry_work (a b c d : Byte) (s : State) : (s.setGeometry a b c d).work = s.work := rfl

/-! `State.startBody` (R60, R85). -/

@[simp] theorem State.startBody_cfg (n : Nat) (s : State) : (s.startBody n).cfg = s.cfg := rfl
@[simp] theorem State.startBody_asset (n : Nat) (s : State) : (s.startBody n).asset = s.asset := rfl
@[simp] theorem State.startBody_assetLen (n : Nat) (s : State) : (s.startBody n).assetLen = s.assetLen := rfl
@[simp] theorem State.startBody_pos (n : Nat) (s : State) : (s.startBody n).pos = s.pos := rfl
@[simp] theorem State.startBody_bw (n : Nat) (s : State) : (s.startBody n).bw = s.bw := rfl
@[simp] theorem State.startBody_bh (n : Nat) (s : State) : (s.startBody n).bh = s.bh := rfl
@[simp] theorem State.startBody_fw (n : Nat) (s : State) : (s.startBody n).fw = s.fw := rfl
@[simp] theorem State.startBody_fh (n : Nat) (s : State) : (s.startBody n).fh = s.fh := rfl
@[simp] theorem State.startBody_xb (n : Nat) (s : State) : (s.startBody n).xb = s.xb := rfl
@[simp] theorem State.startBody_yb (n : Nat) (s : State) : (s.startBody n).yb = s.yb := rfl
@[simp] theorem State.startBody_geomValid (n : Nat) (s : State) : (s.startBody n).geomValid = s.geomValid := rfl
@[simp] theorem State.startBody_faulted (n : Nat) (s : State) : (s.startBody n).faulted = s.faulted := rfl
@[simp] theorem State.startBody_cause (n : Nat) (s : State) : (s.startBody n).cause = s.cause := rfl
@[simp] theorem State.startBody_lastMore (n : Nat) (s : State) : (s.startBody n).lastMore = s.lastMore := rfl
@[simp] theorem State.startBody_lastOp (n : Nat) (s : State) : (s.startBody n).lastOp = s.lastOp := rfl
@[simp] theorem State.startBody_lastOpValid (n : Nat) (s : State) : (s.startBody n).lastOpValid = s.lastOpValid := rfl
@[simp] theorem State.startBody_busy (n : Nat) (s : State) : (s.startBody n).busy = s.busy := rfl
@[simp] theorem State.startBody_fb (n : Nat) (s : State) : (s.startBody n).fb = s.fb := rfl
@[simp] theorem State.startBody_scratch (n : Nat) (s : State) : (s.startBody n).scratch = s.scratch := rfl
@[simp] theorem State.startBody_work (n : Nat) (s : State) : (s.startBody n).work = { bodyLen := n, out := 0, idx := 0 } := rfl

/-! `State.emit` (R60). -/

@[simp] theorem State.emit_cfg (n : Nat) (b : Byte) (s : State) : (s.emit n b).cfg = s.cfg := rfl
@[simp] theorem State.emit_asset (n : Nat) (b : Byte) (s : State) : (s.emit n b).asset = s.asset := rfl
@[simp] theorem State.emit_assetLen (n : Nat) (b : Byte) (s : State) : (s.emit n b).assetLen = s.assetLen := rfl
@[simp] theorem State.emit_pos (n : Nat) (b : Byte) (s : State) : (s.emit n b).pos = s.pos := rfl
@[simp] theorem State.emit_bw (n : Nat) (b : Byte) (s : State) : (s.emit n b).bw = s.bw := rfl
@[simp] theorem State.emit_bh (n : Nat) (b : Byte) (s : State) : (s.emit n b).bh = s.bh := rfl
@[simp] theorem State.emit_fw (n : Nat) (b : Byte) (s : State) : (s.emit n b).fw = s.fw := rfl
@[simp] theorem State.emit_fh (n : Nat) (b : Byte) (s : State) : (s.emit n b).fh = s.fh := rfl
@[simp] theorem State.emit_xb (n : Nat) (b : Byte) (s : State) : (s.emit n b).xb = s.xb := rfl
@[simp] theorem State.emit_yb (n : Nat) (b : Byte) (s : State) : (s.emit n b).yb = s.yb := rfl
@[simp] theorem State.emit_geomValid (n : Nat) (b : Byte) (s : State) : (s.emit n b).geomValid = s.geomValid := rfl
@[simp] theorem State.emit_faulted (n : Nat) (b : Byte) (s : State) : (s.emit n b).faulted = s.faulted := rfl
@[simp] theorem State.emit_cause (n : Nat) (b : Byte) (s : State) : (s.emit n b).cause = s.cause := rfl
@[simp] theorem State.emit_lastMore (n : Nat) (b : Byte) (s : State) : (s.emit n b).lastMore = s.lastMore := rfl
@[simp] theorem State.emit_lastOp (n : Nat) (b : Byte) (s : State) : (s.emit n b).lastOp = s.lastOp := rfl
@[simp] theorem State.emit_lastOpValid (n : Nat) (b : Byte) (s : State) : (s.emit n b).lastOpValid = s.lastOpValid := rfl
@[simp] theorem State.emit_busy (n : Nat) (b : Byte) (s : State) : (s.emit n b).busy = s.busy := rfl
@[simp] theorem State.emit_fb (n : Nat) (b : Byte) (s : State) : (s.emit n b).fb = s.fb := rfl
@[simp] theorem State.emit_scratch (n : Nat) (b : Byte) (s : State) : (s.emit n b).scratch = s.scratch.fill s.work.out n b := rfl
@[simp] theorem State.emit_work (n : Nat) (b : Byte) (s : State) : (s.emit n b).work = { s.work with out := s.work.out + n } := rfl

/-! `State.nextBit` (R85). -/

@[simp] theorem State.nextBit_cfg (s : State) : s.nextBit.cfg = s.cfg := rfl
@[simp] theorem State.nextBit_asset (s : State) : s.nextBit.asset = s.asset := rfl
@[simp] theorem State.nextBit_assetLen (s : State) : s.nextBit.assetLen = s.assetLen := rfl
@[simp] theorem State.nextBit_pos (s : State) : s.nextBit.pos = s.pos := rfl
@[simp] theorem State.nextBit_bw (s : State) : s.nextBit.bw = s.bw := rfl
@[simp] theorem State.nextBit_bh (s : State) : s.nextBit.bh = s.bh := rfl
@[simp] theorem State.nextBit_fw (s : State) : s.nextBit.fw = s.fw := rfl
@[simp] theorem State.nextBit_fh (s : State) : s.nextBit.fh = s.fh := rfl
@[simp] theorem State.nextBit_xb (s : State) : s.nextBit.xb = s.xb := rfl
@[simp] theorem State.nextBit_yb (s : State) : s.nextBit.yb = s.yb := rfl
@[simp] theorem State.nextBit_geomValid (s : State) : s.nextBit.geomValid = s.geomValid := rfl
@[simp] theorem State.nextBit_faulted (s : State) : s.nextBit.faulted = s.faulted := rfl
@[simp] theorem State.nextBit_cause (s : State) : s.nextBit.cause = s.cause := rfl
@[simp] theorem State.nextBit_lastMore (s : State) : s.nextBit.lastMore = s.lastMore := rfl
@[simp] theorem State.nextBit_lastOp (s : State) : s.nextBit.lastOp = s.lastOp := rfl
@[simp] theorem State.nextBit_lastOpValid (s : State) : s.nextBit.lastOpValid = s.lastOpValid := rfl
@[simp] theorem State.nextBit_busy (s : State) : s.nextBit.busy = s.busy := rfl
@[simp] theorem State.nextBit_fb (s : State) : s.nextBit.fb = s.fb := rfl
@[simp] theorem State.nextBit_scratch (s : State) : s.nextBit.scratch = s.scratch := rfl
@[simp] theorem State.nextBit_work (s : State) : s.nextBit.work = { s.work with idx := s.work.idx + 1 } := rfl

/-! `State.withFb` (R79). -/

@[simp] theorem State.withFb_cfg (m : Mem) (s : State) : (s.withFb m).cfg = s.cfg := rfl
@[simp] theorem State.withFb_asset (m : Mem) (s : State) : (s.withFb m).asset = s.asset := rfl
@[simp] theorem State.withFb_assetLen (m : Mem) (s : State) : (s.withFb m).assetLen = s.assetLen := rfl
@[simp] theorem State.withFb_pos (m : Mem) (s : State) : (s.withFb m).pos = s.pos := rfl
@[simp] theorem State.withFb_bw (m : Mem) (s : State) : (s.withFb m).bw = s.bw := rfl
@[simp] theorem State.withFb_bh (m : Mem) (s : State) : (s.withFb m).bh = s.bh := rfl
@[simp] theorem State.withFb_fw (m : Mem) (s : State) : (s.withFb m).fw = s.fw := rfl
@[simp] theorem State.withFb_fh (m : Mem) (s : State) : (s.withFb m).fh = s.fh := rfl
@[simp] theorem State.withFb_xb (m : Mem) (s : State) : (s.withFb m).xb = s.xb := rfl
@[simp] theorem State.withFb_yb (m : Mem) (s : State) : (s.withFb m).yb = s.yb := rfl
@[simp] theorem State.withFb_geomValid (m : Mem) (s : State) : (s.withFb m).geomValid = s.geomValid := rfl
@[simp] theorem State.withFb_faulted (m : Mem) (s : State) : (s.withFb m).faulted = s.faulted := rfl
@[simp] theorem State.withFb_cause (m : Mem) (s : State) : (s.withFb m).cause = s.cause := rfl
@[simp] theorem State.withFb_lastMore (m : Mem) (s : State) : (s.withFb m).lastMore = s.lastMore := rfl
@[simp] theorem State.withFb_lastOp (m : Mem) (s : State) : (s.withFb m).lastOp = s.lastOp := rfl
@[simp] theorem State.withFb_lastOpValid (m : Mem) (s : State) : (s.withFb m).lastOpValid = s.lastOpValid := rfl
@[simp] theorem State.withFb_busy (m : Mem) (s : State) : (s.withFb m).busy = s.busy := rfl
@[simp] theorem State.withFb_fb (m : Mem) (s : State) : (s.withFb m).fb = m := rfl
@[simp] theorem State.withFb_scratch (m : Mem) (s : State) : (s.withFb m).scratch = s.scratch := rfl
@[simp] theorem State.withFb_work (m : Mem) (s : State) : (s.withFb m).work = s.work := rfl

end Sys2Proof.Machine
end

