-- ==== Sys2Proof/Laws/Cursor.lean ====
section
/-!
SUPPORT. What the cursor operations and the fetches answer, in terms of the bytes from the cursor to
the end of the asset (`State.ahead`).
-/

namespace Sys2Proof.Machine

/-! Sequencing. -/

@[simp] theorem Res.bind_ok {α β : Type} (a : α) (s : State) (f : α → State → Res β) :
    (Res.ok a s).bind f = f a s := rfl

@[simp] theorem Res.bind_raised {α β : Type} (s : State) (f : α → State → Res β) :
    (Res.raised s : Res α).bind f = .raised s := rfl

/-- A sequence completes exactly when both parts do. -/
theorem Res.bind_eq_ok {α β : Type} {r : Res α} {f : α → State → Res β} {b : β} {t : State} :
    r.bind f = .ok b t ↔ ∃ a u, r = .ok a u ∧ f a u = .ok b t := by
  cases r <;> simp

/-- A sequence raises a fault in its first part or in its second. -/
theorem Res.bind_eq_raised {α β : Type} {r : Res α} {f : α → State → Res β} {t : State} :
    r.bind f = .raised t ↔ r = .raised t ∨ ∃ a u, r = .ok a u ∧ f a u = .raised t := by
  cases r <;> simp

/-! The bytes ahead. -/

theorem assetBytes_congr {s s' : State} (ha : s'.asset = s.asset) (hl : s'.assetLen = s.assetLen)
    (a n : Nat) : assetBytes s' a n = assetBytes s a n := by
  induction n generalizing a with
  | zero => rfl
  | succ n ih => simp [assetBytes, State.assetByte, ha, hl, ih]

/-- `ahead` depends on the asset and the cursor only. -/
theorem State.ahead_congr {s s' : State} (ha : s'.asset = s.asset) (hl : s'.assetLen = s.assetLen)
    (hp : s'.pos = s.pos) : s'.ahead = s.ahead := by
  simp [State.ahead, assetBytes_congr ha hl, hl, hp]

@[simp] theorem State.ahead_noteOpcode (op : Byte) (s : State) : (s.noteOpcode op).ahead = s.ahead :=
  State.ahead_congr rfl rfl rfl

@[simp] theorem State.ahead_accept (s : State) : s.accept.ahead = s.ahead :=
  State.ahead_congr rfl rfl rfl

theorem State.toNat_advance {s : State} {n : Nat} (h : s.pos.toNat + n ≤ s.assetLen.toNat) :
    (s.advance n).pos.toNat = s.pos.toNat + n := by
  have := s.assetLen.isLt
  simp only [State.advance_pos, BitVec.toNat_add, BitVec.toNat_ofNat]
  omega

theorem State.advance_advance (s : State) (a b : Nat) :
    (s.advance a).advance b = s.advance (a + b) := by
  simp [State.advance, BitVec.add_assoc, BitVec.ofNat_add]

theorem State.advance_zero (s : State) : s.advance 0 = s := by simp [State.advance]

/-- The bytes ahead: none at the end (R55), else the byte at the cursor and those after it. -/
theorem State.ahead_eq (s : State) :
    s.ahead = if s.atEnd then [] else s.assetByte s.pos.toNat :: (s.advance 1).ahead := by
  by_cases h : s.assetLen.toNat ≤ s.pos.toNat
  · simp [State.ahead, State.atEnd, h, Nat.sub_eq_zero_of_le h, assetBytes]
  · have hp : (s.advance 1).pos.toNat = s.pos.toNat + 1 := State.toNat_advance (by omega)
    obtain ⟨d, hd⟩ : ∃ d, s.assetLen.toNat - s.pos.toNat = d + 1 :=
      ⟨s.assetLen.toNat - s.pos.toNat - 1, by omega⟩
    have hlt : s.pos.toNat < s.assetLen.toNat := by omega
    rw [State.ahead, hd, assetBytes, if_pos hlt, State.ahead, hp, State.advance_assetLen,
      show s.assetLen.toNat - (s.pos.toNat + 1) = d by omega,
      assetBytes_congr (s' := s.advance 1) (s := s) rfl rfl]
    simp [State.atEnd, h]

theorem State.ahead_eq_nil {s : State} : s.ahead = [] ↔ s.assetLen.toNat ≤ s.pos.toNat := by
  rw [State.ahead_eq]; simp [State.atEnd]

theorem State.ahead_eq_cons {s : State} {b : Byte} {r : List Byte} (h : s.ahead = b :: r) :
    s.pos.toNat < s.assetLen.toNat ∧ s.assetByte s.pos.toNat = b ∧ (s.advance 1).ahead = r := by
  rw [State.ahead_eq] at h
  simp only [State.atEnd, decide_eq_true_eq] at h
  split_ifs at h with h1
  simp only [List.cons.injEq] at h
  exact ⟨by omega, h⟩

theorem State.length_ahead (s : State) : s.ahead.length = s.assetLen.toNat - s.pos.toNat := by
  generalize h : s.ahead = l
  induction l generalizing s with
  | nil => have := State.ahead_eq_nil.mp h; simp; omega
  | cons b r ih =>
    obtain ⟨h1, -, h3⟩ := State.ahead_eq_cons h
    have := ih _ h3
    rw [State.toNat_advance (by omega)] at this
    simp only [State.advance_assetLen] at this
    simp [this]; omega

/-! Reads (R56, R57, R58). -/

theorem readU8_nil {s : State} (h : s.ahead = []) : readU8 s = .raised (s.raise .readPastEnd) := by
  simp [readU8, State.atEnd, State.ahead_eq_nil.mp h]

theorem readU8_cons {s : State} {b : Byte} {r : List Byte} (h : s.ahead = b :: r) :
    readU8 s = .ok b (s.advance 1) := by
  obtain ⟨h1, h2, -⟩ := State.ahead_eq_cons h
  simp [readU8, State.atEnd, h2, h1]

theorem peekU8_nil {s : State} (h : s.ahead = []) : peekU8 s = .raised (s.raise .readPastEnd) := by
  simp [peekU8, State.atEnd, State.ahead_eq_nil.mp h]

theorem peekU8_cons {s : State} {b : Byte} {r : List Byte} (h : s.ahead = b :: r) :
    peekU8 s = .ok b s := by
  obtain ⟨h1, h2, -⟩ := State.ahead_eq_cons h
  simp [peekU8, State.atEnd, h2, h1]

theorem readU16_short {s : State} (h : s.ahead.length < 2) :
    readU16 s = .raised (s.raise .readPastEnd) := by
  rw [State.length_ahead] at h
  simp [readU16]; omega

theorem readU16_cons {s : State} {lo hi : Byte} {r : List Byte} (h : s.ahead = lo :: hi :: r) :
    readU16 s = .ok (u16le lo hi) (s.advance 2) := by
  obtain ⟨h1, h2, h3⟩ := State.ahead_eq_cons h
  obtain ⟨h4, h5, -⟩ := State.ahead_eq_cons h3
  rw [State.toNat_advance (by omega)] at h4 h5
  simp only [State.advance_assetLen] at h4
  have h5' : s.assetByte (s.pos.toNat + 1) = hi := h5
  simp [readU16, h2, h5']; omega

/-! Fetches. -/

/-- The opcode map answers INIT and DELTA for their own byte only, and otherwise a well-formed record
whose encoding is that byte (R42, R51). -/
def headOk (op : Byte) : Bool :=
  match decodeHead op with
  | .init => op == 0x00
  | .delta => op == 0x03
  | .whole i => i.wellFormed && i.isRecord && (encode i == [op])

/-- Checked over the 256 opcode bytes. -/
theorem headOk_all : ∀ n : Fin 256, headOk (BitVec.ofFin n) = true := by decide +kernel

theorem decodeHead_spec (op : Byte) :
    (decodeHead op = .init ∧ op = 0x00) ∨ (decodeHead op = .delta ∧ op = 0x03) ∨
    (∃ i, decodeHead op = .whole i ∧ i.wellFormed = true ∧ i.isRecord = true ∧ encode i = [op]) := by
  have h := headOk_all op.toFin
  simp only [BitVec.ofFin_toFin, headOk] at h
  cases hd : decodeHead op <;> simp_all

/-- The value of a little-endian u16 (R28). -/
theorem toNat_u16le (lo hi : Byte) : (u16le lo hi).toNat = lo.toNat + 256 * hi.toNat := by
  have h : (u16le lo hi).toNat = hi.toNat <<< 8 ||| lo.toNat := BitVec.toNat_append ..
  rw [h, ← Nat.shiftLeft_add_eq_or_of_lt lo.isLt, Nat.shiftLeft_eq]
  omega

theorem lowByte_u16le (lo hi : Byte) : lowByte (u16le lo hi) = lo := by
  apply BitVec.eq_of_toNat_eq
  have := lo.isLt
  simp [lowByte, BitVec.extractLsb'_toNat, toNat_u16le]
  omega

theorem highByte_u16le (lo hi : Byte) : highByte (u16le lo hi) = hi := by
  apply BitVec.eq_of_toNat_eq
  have := lo.isLt
  have := hi.isLt
  simp [highByte, BitVec.extractLsb'_toNat, toNat_u16le, Nat.shiftRight_eq_div_pow]
  omega

theorem State.noteOpcode_advance (s : State) (n : Nat) (op : Byte) :
    (s.advance n).noteOpcode op = (s.noteOpcode op).advance n := rfl

/-- The fetch of a record's fixed part is the decoder over the bytes ahead (R68). -/
theorem fetchRecord_instr {s : State} {i : Instr} {rest : List Byte}
    (h : decode s.ahead = .instr i rest) :
    i.wellFormed = true ∧ i.isRecord = true ∧ s.ahead = encode i ++ rest ∧
    fetchRecord s =
      .ok i ((s.noteOpcode ((encode i).headD 0)).advance (encode i).length) := by
  cases ha : s.ahead with
  | nil => simp [ha, decode] at h
  | cons op r =>
    have hr := (State.ahead_eq_cons ha).2.2
    have hn : ∀ o, ((s.noteOpcode o).advance 1).ahead = r := fun o => by
      rw [← State.noteOpcode_advance, State.ahead_noteOpcode, hr]
    rw [ha, decode] at h
    simp only [fetchRecord, readU8_cons ha, Res.bind_ok, State.noteOpcode_advance]
    obtain ⟨hd, rfl⟩ | ⟨hd, rfl⟩ | ⟨j, hd, hw, hrec, henc⟩ := decodeHead_spec op
    · rw [hd] at h ⊢
      simp only [decodeInit] at h
      split at h <;> simp only [Decoded.instr.injEq, reduceCtorEq] at h
      obtain ⟨rfl, rfl⟩ := h
      have h0 := hn 0x00
      have h1 := (State.ahead_eq_cons h0).2.2
      have h2 := (State.ahead_eq_cons h1).2.2
      have h3 := (State.ahead_eq_cons h2).2.2
      simp only [readInitOperands, readU8_cons h0, readU8_cons h1, readU8_cons h2, readU8_cons h3,
        Res.bind_ok]
      refine ⟨rfl, rfl, rfl, ?_⟩
      simp [encode, State.advance, State.noteOpcode, BitVec.add_assoc]
    · rw [hd] at h ⊢
      simp only [decodeDelta] at h
      split at h <;> simp only [Decoded.instr.injEq, reduceCtorEq] at h
      obtain ⟨rfl, rfl⟩ := h
      simp only [readDeltaOperand, readU16_cons (hn 0x03), Res.bind_ok]
      refine ⟨rfl, rfl, ?_, ?_⟩
      · simp [encode, lowByte_u16le, highByte_u16le]
      · simp [encode, State.advance, State.noteOpcode, BitVec.add_assoc]
    · rw [hd] at h ⊢
      simp only [Decoded.instr.injEq] at h
      obtain ⟨rfl, rfl⟩ := h
      refine ⟨hw, hrec, by simp [henc], ?_⟩
      simp [henc, State.advance, State.noteOpcode]

/-- A record cut short faults in the fetch, having consumed what R57 and R58 consume. -/
theorem fetchRecord_rejected {s : State} {e : DecodeError} (h : decode s.ahead = .rejected e) :
    (e = .noByte ∧ s.ahead = []) ∨
    (e = .initCutShort ∧ s.ahead.length < 5 ∧ s.ahead.head? = some 0x00 ∧
      fetchRecord s =
        .raised (((s.noteOpcode 0x00).advance s.ahead.length).raise .readPastEnd)) ∨
    (e = .deltaCutShort ∧ s.ahead.length < 3 ∧ s.ahead.head? = some 0x03 ∧
      fetchRecord s = .raised (((s.noteOpcode 0x03).advance 1).raise .readPastEnd)) := by
  cases ha : s.ahead with
  | nil => left; simp_all [decode]
  | cons op r =>
    have hr := (State.ahead_eq_cons ha).2.2
    have hn : ∀ o, ((s.noteOpcode o).advance 1).ahead = r := fun o => by
      rw [← State.noteOpcode_advance, State.ahead_noteOpcode, hr]
    rw [ha, decode] at h
    simp only [fetchRecord, readU8_cons ha, Res.bind_ok, State.noteOpcode_advance]
    obtain ⟨hd, rfl⟩ | ⟨hd, rfl⟩ | ⟨j, hd, -, -, -⟩ := decodeHead_spec op
    · rw [hd] at h ⊢
      have h0 := hn 0x00
      right; left
      match r, h, h0 with
      | [], h, h0 =>
        simp only [decodeInit, Decoded.rejected.injEq] at h
        simp only [readInitOperands, readU8_nil h0, Res.bind_raised]
        simp [h]
      | [a], h, h0 =>
        simp only [decodeInit, Decoded.rejected.injEq] at h
        simp only [readInitOperands, readU8_cons h0, readU8_nil (State.ahead_eq_cons h0).2.2,
          Res.bind_ok, Res.bind_raised]
        simp [h, State.advance_advance]
      | [a, b], h, h0 =>
        have h1 := (State.ahead_eq_cons h0).2.2
        simp only [decodeInit, Decoded.rejected.injEq] at h
        simp only [readInitOperands, readU8_cons h0, readU8_cons h1,
          readU8_nil (State.ahead_eq_cons h1).2.2,
          Res.bind_ok, Res.bind_raised]
        simp [h, State.advance_advance]
      | [a, b, c], h, h0 =>
        have h1 := (State.ahead_eq_cons h0).2.2
        have h2 := (State.ahead_eq_cons h1).2.2
        simp only [decodeInit, Decoded.rejected.injEq] at h
        simp only [readInitOperands, readU8_cons h0, readU8_cons h1, readU8_cons h2,
          readU8_nil (State.ahead_eq_cons h2).2.2,
          Res.bind_ok, Res.bind_raised]
        simp [h, State.advance_advance]
      | a :: b :: c :: d :: r, h, h0 => simp [decodeInit] at h
    · rw [hd] at h ⊢
      right; right
      match r, h with
      | [], h =>
        simp only [decodeDelta, Decoded.rejected.injEq] at h
        simp only [readDeltaOperand, readU16_short (s := (s.noteOpcode 0x03).advance 1) (by simp [hn]),
          Res.bind_raised]
        simp [h]
      | [a], h =>
        simp only [decodeDelta, Decoded.rejected.injEq] at h
        simp only [readDeltaOperand, readU16_short (s := (s.noteOpcode 0x03).advance 1) (by simp [hn]),
          Res.bind_raised]
        simp [h]
      | a :: b :: r, h => simp [decodeDelta] at h
    · simp [hd] at h

/-- The token fetch is the token decoder over the bytes ahead (R60, R64): the three ways it ends. -/
theorem fetchToken_cases (s : State) :
    (s.ahead = [] ∧ fetchToken s = .raised (s.raise .readPastEnd)) ∨
    (∃ b, s.ahead = [b, b] ∧ fetchToken s = .raised ((s.advance 2).raise .readPastEnd)) ∨
    (∃ b rest, s.ahead = b :: rest ∧ rest.head? ≠ some b ∧
      fetchToken s = .ok (.lit b) (s.advance 1)) ∨
    (∃ b n rest, s.ahead = b :: b :: n :: rest ∧ fetchToken s = .ok (.run b n) (s.advance 3)) := by
  match ha : s.ahead with
  | [] => simp [fetchToken, readU8_nil ha]
  | [b] =>
    have h1 := (State.ahead_eq_cons ha).2.2
    right; right; left
    refine ⟨b, [], rfl, by simp, ?_⟩
    have h2 : (s.advance 1).atEnd = true := by
      simpa only [State.atEnd, decide_eq_true_eq] using State.ahead_eq_nil.mp h1
    simp only [fetchToken, readU8_cons ha, Res.bind_ok, h2, if_true]
  | b :: c :: rest =>
    have h1 := (State.ahead_eq_cons ha).2.2
    have hlt := (State.ahead_eq_cons h1).1
    by_cases hc : c = b
    · subst hc
      have h2 := (State.ahead_eq_cons h1).2.2
      rw [State.advance_advance] at h2
      match rest with
      | [] =>
        right; left
        refine ⟨c, rfl, ?_⟩
        simp only [State.advance_assetLen] at hlt
        simp only [fetchToken, readU8_cons ha, Res.bind_ok, State.atEnd, State.advance_assetLen,
          decide_eq_true_eq, if_neg (Nat.not_le.mpr hlt), peekU8_cons h1, if_true,
          State.advance_advance, readU8_nil h2, Res.bind_raised]
      | n :: rest' =>
        right; right; right
        refine ⟨c, n, rest', rfl, ?_⟩
        simp only [State.advance_assetLen] at hlt
        simp only [fetchToken, readU8_cons ha, Res.bind_ok, State.atEnd, State.advance_assetLen,
          decide_eq_true_eq, if_neg (Nat.not_le.mpr hlt), peekU8_cons h1, if_true,
          State.advance_advance, readU8_cons h2]
    · right; right; left
      refine ⟨b, c :: rest, rfl, by simpa using hc, ?_⟩
      simp only [State.advance_assetLen] at hlt
      simp only [fetchToken, readU8_cons ha, Res.bind_ok, State.atEnd, State.advance_assetLen,
        decide_eq_true_eq, if_neg (Nat.not_le.mpr hlt), peekU8_cons h1, if_neg hc]

end Sys2Proof.Machine
end

