-- ==== Sys2Proof/Laws/Mem.lean ====
section
/-!
SUPPORT. The laws of a byte space: a read after a write gives the byte written and every other
address is left alone, in any space; and every operation keeps the canonical form and the size.
-/

namespace Sys2Proof.Machine

@[simp] theorem Mem.read_nil (a : Nat) : Mem.read [] a = 0 := rfl

theorem Mem.read_cons (k : Nat) (v : Byte) (m : Mem) (a : Nat) :
    Mem.read ((k, v) :: m) a = if k = a then v else m.read a := rfl

/-! Reads. -/

theorem Mem.read_erase (m : Mem) (a a' : Nat) :
    (m.erase a).read a' = if a' = a then 0 else m.read a' := by
  induction m with
  | nil => simp [Mem.erase]
  | cons e m ih =>
    obtain ⟨k, w⟩ := e
    by_cases h1 : k = a <;> by_cases h2 : a' = a <;> simp_all [Mem.erase, Mem.read_cons]
    intro h; exact absurd h.symm h2

theorem Mem.read_place_ne (m : Mem) {a a' : Nat} (v : Byte) (h : a' ≠ a) :
    (m.place a v).read a' = m.read a' := by
  induction m with
  | nil => simp [Mem.place, Mem.read_cons, h.symm]
  | cons e m ih =>
    obtain ⟨k, w⟩ := e
    unfold Mem.place
    split_ifs <;> simp [Mem.read_cons, h.symm, ih]

theorem Mem.read_place_erase (m : Mem) (a : Nat) (v : Byte) :
    ((m.erase a).place a v).read a = v := by
  induction m with
  | nil => simp [Mem.erase, Mem.place, Mem.read_cons]
  | cons e m ih =>
    obtain ⟨k, w⟩ := e
    by_cases h1 : k = a
    · simpa [Mem.erase, h1] using ih
    · by_cases h2 : a < k <;> simp [Mem.erase, Mem.place, Mem.read_cons, h1, h2, ih]

/-- A read after a write, in any space. -/
theorem Mem.read_write (m : Mem) (a a' : Nat) (v : Byte) :
    (m.write a v).read a' = if a' = a then v else m.read a' := by
  unfold Mem.write
  by_cases hv : v = Mem.unlisted
  · subst hv; simp [Mem.read_erase]; rfl
  · by_cases h : a' = a
    · subst h; simp [hv, Mem.read_place_erase]
    · simp [hv, Mem.read_place_ne _ v h, Mem.read_erase, h]

/-- A read after a fill, in any space. -/
theorem Mem.read_fill (m : Mem) (a n : Nat) (v : Byte) (a' : Nat) :
    (m.fill a n v).read a' = if a ≤ a' ∧ a' < a + n then v else m.read a' := by
  induction n generalizing m a with
  | zero => simp [Mem.fill]
  | succ n ih =>
    simp only [Mem.fill, ih, Mem.read_write]
    split_ifs <;> first | rfl | omega

/-! The canonical form. -/

theorem Mem.above_mono {m : Mem} {lo lo' : Nat} (h : lo' ≤ lo) (hm : m.above lo = true) :
    m.above lo' = true := by
  induction m with
  | nil => rfl
  | cons e m ih =>
    obtain ⟨k, v⟩ := e
    simp only [Mem.above, Bool.and_eq_true, decide_eq_true_eq] at hm ⊢
    exact ⟨by omega, ih hm.2⟩

theorem Mem.above_erase {m : Mem} {lo : Nat} (a : Nat) (hm : m.above lo = true) :
    (m.erase a).above lo = true := by
  induction m with
  | nil => rfl
  | cons e m ih =>
    obtain ⟨k, v⟩ := e
    simp only [Mem.above, Bool.and_eq_true, decide_eq_true_eq] at hm
    by_cases h : k = a <;> simp [Mem.erase, Mem.above, h, ih hm.2, hm.1]

theorem Mem.wf_erase {m : Mem} (a : Nat) (hm : m.wf = true) : (m.erase a).wf = true := by
  induction m with
  | nil => rfl
  | cons e m ih =>
    obtain ⟨k, v⟩ := e
    simp only [Mem.wf, Bool.and_eq_true] at hm
    by_cases h : k = a
    · simpa [Mem.erase, h] using ih hm.2
    · simp only [Mem.erase, if_neg h, Mem.wf, Bool.and_eq_true]
      exact ⟨⟨hm.1.1, Mem.above_erase a hm.1.2⟩, ih hm.2⟩

theorem Mem.above_place {m : Mem} {lo a : Nat} (v : Byte) (hm : m.above lo = true) (ha : lo < a) :
    (m.place a v).above lo = true := by
  induction m with
  | nil => simp [Mem.place, Mem.above, ha]
  | cons e m ih =>
    obtain ⟨k, w⟩ := e
    simp only [Mem.above, Bool.and_eq_true, decide_eq_true_eq] at hm
    by_cases h : a < k <;> simp [Mem.place, Mem.above, h, hm, ha, ih hm.2]

theorem Mem.wf_place_erase {m : Mem} {a : Nat} {v : Byte} (hm : m.wf = true)
    (hv : v ≠ Mem.unlisted) : ((m.erase a).place a v).wf = true := by
  induction m with
  | nil => simp [Mem.erase, Mem.place, Mem.wf, Mem.above, hv]
  | cons e m ih =>
    obtain ⟨k, w⟩ := e
    simp only [Mem.wf, Bool.and_eq_true, bne_iff_ne, ne_eq] at hm
    obtain ⟨⟨hw, hab⟩, hwf⟩ := hm
    by_cases h1 : k = a
    · simpa [Mem.erase, h1] using ih hwf
    · have he := Mem.above_erase a hab
      by_cases h2 : a < k
      · simp [Mem.erase, Mem.place, Mem.wf, Mem.above, h1, h2, hv, hw, he, Mem.wf_erase a hwf,
          Mem.above_mono (Nat.le_of_lt h2) he]
      · simp [Mem.erase, Mem.place, Mem.wf, h1, h2, hw, ih hwf,
          Mem.above_place v he (show k < a by omega)]

/-- A write keeps the canonical form. -/
theorem Mem.wf_write {m : Mem} (a : Nat) (v : Byte) (hm : m.wf = true) :
    (m.write a v).wf = true := by
  unfold Mem.write
  split_ifs with h
  · exact Mem.wf_erase a hm
  · exact Mem.wf_place_erase hm h

/-- A fill keeps the canonical form. -/
theorem Mem.wf_fill {m : Mem} (a n : Nat) (v : Byte) (hm : m.wf = true) :
    (m.fill a n v).wf = true := by
  induction n generalizing m a with
  | zero => exact hm
  | succ n ih => exact ih (a + 1) (Mem.wf_write a v hm)

/-! The size. -/

theorem Mem.below_write {m : Mem} {hi a : Nat} (v : Byte) (hm : m.below hi = true) (ha : a < hi) :
    (m.write a v).below hi = true := by
  have he : (m.erase a).below hi = true := by
    induction m with
    | nil => rfl
    | cons e m ih =>
      obtain ⟨k, w⟩ := e
      simp only [Mem.below, Bool.and_eq_true, decide_eq_true_eq] at hm
      by_cases h : k = a <;> simp [Mem.erase, Mem.below, h, hm.1, ih hm.2]
  unfold Mem.write
  split_ifs
  · exact he
  · generalize m.erase a = m' at he
    induction m' with
    | nil => simp [Mem.place, Mem.below, ha]
    | cons e m ih =>
      obtain ⟨k, w⟩ := e
      simp only [Mem.below, Bool.and_eq_true, decide_eq_true_eq] at he
      by_cases h : a < k <;> simp [Mem.place, Mem.below, h, ha, he, ih he.2]

theorem Mem.below_fill {m : Mem} {hi a n : Nat} (v : Byte) (hm : m.below hi = true)
    (ha : a + n ≤ hi) : (m.fill a n v).below hi = true := by
  induction n generalizing m a with
  | zero => exact hm
  | succ n ih => exact ih (Mem.below_write v hm (by omega)) (by omega)

end Sys2Proof.Machine
end

