-- ==== Sys2Proof/Laws/Framebuffer.lean ====
section
/-!
SUPPORT. What the pixel operations do: a set or an invert changes its own pixel and no other, in one
byte of the framebuffer.
-/

namespace Sys2Proof.Machine

/-! Bits of a byte. -/

theorem getLsbD_bitAt (v : Bool) {k j : Nat} (hj : j < 8) :
    (bitAt v k).getLsbD j = (v && decide (j = k)) := by
  cases v
  · simp [bitAt]
  · simp only [bitAt, if_true, BitVec.getLsbD_shiftLeft, hj, decide_true, Bool.true_and]
    by_cases h : j < k
    · simp [h, show j ≠ k by omega]
    · rcases Nat.eq_or_lt_of_le (Nat.not_lt.mp h) with h' | h'
      · subst h'; simp
      · have h1 : j - k ≠ 0 := by omega
        simp [h, show j ≠ k by omega, h1]

/-- A byte with bit `k` replaced: bit `k` is the new one, the other seven are the old ones (R79). -/
theorem getLsbD_putBit (w : Byte) (v : Bool) {k j : Nat} (hj : j < 8) :
    (putBit w k v).getLsbD j = if j = k then v else w.getLsbD j := by
  simp only [putBit, BitVec.getLsbD_or, BitVec.getLsbD_and, BitVec.getLsbD_not, hj, decide_true,
    Bool.true_and, getLsbD_bitAt _ hj]
  by_cases h : j = k <;> simp [h]

/-- Replacing a bit by its inverse is an xor (R80). -/
theorem putBit_not (w : Byte) (k : Nat) :
    putBit w k (!w.getLsbD k) = w ^^^ (1#8 <<< k) := by
  apply BitVec.eq_of_getLsbD_eq
  intro j hj
  rw [getLsbD_putBit _ _ hj, BitVec.getLsbD_xor]
  have h := getLsbD_bitAt true (k := k) hj
  simp only [bitAt, if_true, Bool.true_and] at h
  rw [h]
  by_cases hjk : j = k <;> simp [hjk]

/-! Addresses. -/

/-- Inside the page width, a byte index names its column and its page (R32). -/
theorem fbIndex_inj {c : Nat} {x x' p p' : Nat} (hx : x < c) (hx' : x' < c)
    (h : x + p * c = x' + p' * c) : x = x' ∧ p = p' := by
  have hc : 0 < c := by omega
  have h1 : (x + p * c) / c = p := by rw [Nat.add_mul_div_right _ _ hc, Nat.div_eq_of_lt hx, Nat.zero_add]
  have h2 : (x' + p' * c) / c = p' := by
    rw [Nat.add_mul_div_right _ _ hc, Nat.div_eq_of_lt hx', Nat.zero_add]
  have hp : p = p' := by rw [← h1, h, h2]
  subst hp
  exact ⟨by omega, rfl⟩

/-- A pixel in the grid lies in the storage (R33). -/
theorem fbIndex_lt {s : State} {x y : Nat} (h : s.inGrid x y = true) :
    s.fbIndex x y < s.cfg.fbBytes := by
  simp only [State.inGrid, Bool.and_eq_true, decide_eq_true_eq] at h
  have hp : y / 8 + 1 ≤ s.cfg.fbPages := by omega
  have := Nat.mul_le_mul_right s.cfg.fbStride hp
  rw [Nat.add_mul, Nat.one_mul] at this
  simp only [State.fbIndex, Config.fbBytes]
  rw [Nat.mul_comm s.cfg.fbStride]
  omega

/-! Pixels. -/

/-- The framebuffer with one bit put. -/
def State.putPixel (x y : Nat) (v : Bool) (s : State) : State :=
  s.withFb (s.fb.write (s.fbIndex x y) (putBit (s.fb.read (s.fbIndex x y)) (y % 8) v))

theorem State.pixel_putPixel {s : State} {x y x' y' : Nat} (v : Bool) (hx : x < s.cfg.fbStride)
    (hx' : x' < s.cfg.fbStride) :
    (s.putPixel x y v).pixel x' y' = if x' = x ∧ y' = y then v else s.pixel x' y' := by
  have hb : y' % 8 < 8 := Nat.mod_lt _ (by omega)
  simp only [State.putPixel, State.pixel, State.fbIndex, State.withFb_fb, State.withFb_cfg,
    Mem.read_write]
  by_cases h : x' + y' / 8 * s.cfg.fbStride = x + y / 8 * s.cfg.fbStride
  · obtain ⟨rfl, hp⟩ := fbIndex_inj hx' hx h
    rw [if_pos h, getLsbD_putBit _ _ hb, h]
    by_cases hm : y' % 8 = y % 8
    · rw [if_pos hm, if_pos ⟨rfl, by omega⟩]
    · rw [if_neg hm, if_neg (by rintro ⟨-, rfl⟩; exact hm rfl)]
  · rw [if_neg h, if_neg]
    rintro ⟨rfl, rfl⟩
    exact h rfl

theorem State.read_putPixel_ne {s : State} {x y a : Nat} (v : Bool) (h : a ≠ s.fbIndex x y) :
    (s.putPixel x y v).fb.read a = s.fb.read a := by
  simp [State.putPixel, Mem.read_write, h]

/-- fb_set (R79). -/
theorem fbSet_eq (x y : Nat) (v : Bool) (s : State) :
    fbSet x y v s = if s.inGrid x y then .ok () (s.putPixel x y v) else .raised (s.raise .fbBounds) :=
  rfl

/-- fb_invert (R80). -/
theorem fbInvert_eq (x y : Nat) (s : State) :
    fbInvert x y s =
      if s.inGrid x y then .ok () (s.putPixel x y (!s.pixel x y)) else .raised (s.raise .fbBounds) := by
  unfold fbInvert fbGet
  split_ifs with h <;> simp [fbSet_eq, h]

end Sys2Proof.Machine
end

