-- ==== Sys2Proof/Laws/Inflate.lean ====
section
/-!
SUPPORT. What inflate can do: the frame of a token and of the loop, completed or faulted, and one
round of the loop at a token.
-/

namespace Sys2Proof.Machine

/-- What inflate leaves when it completes: the cursor, the scratch buffer and `out` only. -/
def InflateKeeps (s t : State) : Prop :=
  t = { s with pos := t.pos, scratch := t.scratch, work := { s.work with out := t.work.out } }

/-- What inflate leaves when it faults (R88): the cursor, the scratch buffer and fault entry only. -/
def InflateFaults (s t : State) : Prop :=
  (t.cause = .scratchOverflow ∨ t.cause = .readPastEnd ∨ t.cause = .runOverrun) ∧
  t = { s with
    pos := t.pos, scratch := t.scratch, faulted := true, cause := t.cause,
    lastMore := false, busy := false, work := Work.idle }

theorem InflateKeeps.refl (s : State) : InflateKeeps s s := rfl

theorem InflateKeeps.trans {s t u : State} (h : InflateKeeps s t) (h' : InflateKeeps t u) :
    InflateKeeps s u := by
  unfold InflateKeeps at *
  rw [h'] ; rw [h]

theorem InflateFaults.of_keeps {s t u : State} (h : InflateKeeps s t) (h' : InflateFaults t u) :
    InflateFaults s u := by
  refine ⟨h'.1, ?_⟩
  have := h'.2
  unfold InflateKeeps at h
  rw [this, h]

/-- The cursor moved forward, not past the end of the asset (R12). -/
def PosKeeps (s t : State) : Prop :=
  s.pos.toNat ≤ s.assetLen.toNat →
    s.pos.toNat ≤ t.pos.toNat ∧ t.pos.toNat ≤ s.assetLen.toNat

/-- The scratch bytes from `n` up are kept, and so are the canonical form and a size of at least
`n` (R60). -/
def ScratchKeeps (n : Nat) (s t : State) : Prop :=
  (∀ a, n ≤ a → t.scratch.read a = s.scratch.read a) ∧
  (s.scratch.wf = true → t.scratch.wf = true) ∧
  (∀ hi, n ≤ hi → s.scratch.below hi = true → t.scratch.below hi = true)

theorem PosKeeps.refl (s : State) : PosKeeps s s := fun h => ⟨Nat.le_refl _, h⟩

theorem PosKeeps.trans {s t u : State} (hl : t.assetLen = s.assetLen) (h : PosKeeps s t)
    (h' : PosKeeps t u) : PosKeeps s u := by
  intro hp
  obtain ⟨h1, h2⟩ := h hp
  unfold PosKeeps at h'
  rw [hl] at h'
  obtain ⟨h3, h4⟩ := h' h2
  exact ⟨by omega, h4⟩

theorem PosKeeps.advance {s : State} {n : Nat} (h : n ≤ s.ahead.length) :
    PosKeeps s (s.advance n) := by
  intro hp
  rw [State.length_ahead] at h
  rw [State.toNat_advance (by omega)]
  omega

theorem ScratchKeeps.refl (n : Nat) (s : State) : ScratchKeeps n s s :=
  ⟨fun _ _ => rfl, id, fun _ _ => id⟩

theorem ScratchKeeps.trans {n : Nat} {s t u : State} (h : ScratchKeeps n s t)
    (h' : ScratchKeeps n t u) : ScratchKeeps n s u :=
  ⟨fun a ha => (h'.1 a ha).trans (h.1 a ha), fun hw => h'.2.1 (h.2.1 hw),
    fun hi hn hb => h'.2.2 hi hn (h.2.2 hi hn hb)⟩

theorem ScratchKeeps.emit {n c : Nat} {b : Byte} {s : State} (h : s.work.out + c ≤ n) :
    ScratchKeeps n s (s.emit c b) := by
  refine ⟨fun a ha => ?_, fun hw => Mem.wf_fill _ _ _ hw, fun hi hn hb => Mem.below_fill _ hb
    (by omega)⟩
  simp only [State.emit_scratch, Mem.read_fill]
  rw [if_neg (by omega)]

/-- The fetch of a token consumes bytes that are there, or faults READ_PAST_END. -/
theorem fetchToken_frame (s : State) : ∃ n, n ≤ s.ahead.length ∧
    ((∃ t, fetchToken s = .ok t (s.advance n)) ∨
      fetchToken s = .raised ((s.advance n).raise .readPastEnd)) := by
  obtain ⟨-, h⟩ | ⟨b, ha, h⟩ | ⟨b, r, ha, -, h⟩ | ⟨b, n, r, ha, h⟩ := fetchToken_cases s
  · exact ⟨0, by simp, .inr (by rw [h, State.advance_zero])⟩
  · exact ⟨2, by simp [ha], .inr h⟩
  · exact ⟨1, by simp [ha], .inl ⟨_, h⟩⟩
  · exact ⟨3, by simp [ha], .inl ⟨_, h⟩⟩

/-- A token at a token position writes its expansion within the target, or is a run past it. -/
theorem emitToken_cases (t : Token) {s : State} (h : s.work.out < s.work.bodyLen) :
    (s.work.out + t.expand.length ≤ s.work.bodyLen ∧
      ∃ b, t.expand = List.replicate t.expand.length b ∧
        emitToken t s = .ok () (s.emit t.expand.length b)) ∨
    (s.work.bodyLen < s.work.out + t.expand.length ∧
      emitToken t s = .raised (s.raise .runOverrun)) := by
  cases t with
  | lit b => exact .inl ⟨by simpa [Token.expand] using h, b, rfl, rfl⟩
  | run b n =>
    simp only [Token.expand, List.length_replicate, emitToken, emitRun]
    split_ifs with h1
    · exact .inr ⟨by omega, rfl⟩
    · exact .inl ⟨by omega, b, rfl, rfl⟩

/-- Every way inflate can end: its frame, completed or faulted, the scratch bytes from `n` up and
the cursor. -/
def InflateSpec (n : Nat) (s : State) (r : Res Unit) : Prop :=
  (∃ t, r = .ok () t ∧ InflateKeeps s t ∧ ScratchKeeps n s t ∧ PosKeeps s t) ∨
  (∃ t, r = .raised t ∧ InflateFaults s t ∧ ScratchKeeps n s t ∧ PosKeeps s t)

theorem InflateSpec.of_keeps {n : Nat} {s t : State} {r : Res Unit} (hk : InflateKeeps s t)
    (hs : ScratchKeeps n s t) (hp : PosKeeps s t) (h : InflateSpec n t r) : InflateSpec n s r := by
  have hl : t.assetLen = s.assetLen := by unfold InflateKeeps at hk; rw [hk]
  obtain ⟨u, hr, hk', hs', hp'⟩ | ⟨u, hr, hk', hs', hp'⟩ := h
  · exact .inl ⟨u, hr, hk.trans hk', hs.trans hs', hp.trans hl hp'⟩
  · exact .inr ⟨u, hr, hk'.of_keeps hk, hs.trans hs', hp.trans hl hp'⟩

/-- The loop touches no scratch byte at or past the target. -/
theorem inflateLoop_spec (k : Nat) (s : State) : InflateSpec s.work.bodyLen s (inflateLoop k s) := by
  induction k generalizing s with
  | zero =>
    exact .inl ⟨s, rfl, InflateKeeps.refl s, ScratchKeeps.refl _ s, PosKeeps.refl s⟩
  | succ k ih =>
    unfold inflateLoop
    split_ifs with h
    · simp only [State.atToken, decide_eq_true_eq] at h
      obtain ⟨n, hn, ⟨tok, hf⟩ | hf⟩ := fetchToken_frame s
      · have h' : (s.advance n).work.out < (s.advance n).work.bodyLen := h
        obtain ⟨hle, b, -, he⟩ | ⟨-, he⟩ := emitToken_cases tok h'
        · rw [hf, Res.bind_ok, he, Res.bind_ok]
          exact InflateSpec.of_keeps (t := (s.advance n).emit tok.expand.length b) rfl
            (ScratchKeeps.emit hle) (PosKeeps.advance hn) (ih _)
        · rw [hf, Res.bind_ok, he, Res.bind_raised]
          exact .inr ⟨_, rfl, ⟨by simp, rfl⟩, ScratchKeeps.refl _ s, PosKeeps.advance hn⟩
      · rw [hf, Res.bind_raised]
        exact .inr ⟨_, rfl, ⟨by simp, rfl⟩, ScratchKeeps.refl _ s, PosKeeps.advance hn⟩
    · exact .inl ⟨s, rfl, InflateKeeps.refl s, ScratchKeeps.refl _ s, PosKeeps.refl s⟩

/-- Inflate (R60, R65): completed, it leaves a body of `n` bytes with no bit read; faulted, only fault
entry; and in a scratch buffer of the configured capacity it stays. -/
theorem inflate_spec (n : Nat) (s : State) :
    ((∃ t, inflate n s = .ok () t ∧
        t = { s with pos := t.pos, scratch := t.scratch, work := t.work } ∧
        t.work.bodyLen = n ∧ t.work.idx = 0 ∧ ScratchKeeps n s t ∧ PosKeeps s t ∧
        n ≤ s.cfg.scratchBytes) ∨
      (∃ t, inflate n s = .raised t ∧ InflateFaults s t ∧ ScratchKeeps n s t ∧ PosKeeps s t ∧
        (s.scratch.below s.cfg.scratchBytes = true →
          t.scratch.below s.cfg.scratchBytes = true))) := by
  unfold inflate
  split_ifs with h
  · exact .inr ⟨_, rfl, ⟨by simp, rfl⟩, ScratchKeeps.refl n s, PosKeeps.refl s, id⟩
  · obtain ⟨t, ht, hk, hs, hp⟩ | ⟨t, ht, hf, hs, hp⟩ := inflateLoop_spec n (s.startBody n)
    · refine .inl ⟨t, ht, ?_, ?_, ?_, hs, hp, by omega⟩ <;>
        (unfold InflateKeeps at hk; rw [hk]; rfl)
    · exact .inr ⟨t, ht, ⟨hf.1, hf.2⟩, hs, hp, fun hb => hs.2.2 _ (by simpa using h) hb⟩

/-- One round of the loop at a token whose expansion stays within the target (R60). -/
theorem inflateLoop_round {k n : Nat} {s : State} {t : Token}
    (hf : fetchToken s = .ok t (s.advance n))
    (hle : s.work.out + t.expand.length ≤ s.work.bodyLen) (hpos : 0 < t.expand.length) :
    ∃ b, t.expand = List.replicate t.expand.length b ∧
      inflateLoop (k + 1) s = inflateLoop k ((s.advance n).emit t.expand.length b) := by
  have h : s.work.out < s.work.bodyLen := by omega
  have h' : (s.advance n).work.out < (s.advance n).work.bodyLen := h
  obtain ⟨-, b, hb, he⟩ | ⟨hgt, -⟩ := emitToken_cases t h'
  · refine ⟨b, hb, ?_⟩
    simp [inflateLoop, State.atToken, h, hf, he]
  · simp only [State.advance_work] at hgt; omega

/-- Every token expands to at least one byte (R67). -/
theorem Token.expand_pos (t : Token) : 0 < t.expand.length := by
  cases t <;> simp [Token.expand]

end Sys2Proof.Machine
end

