-- ==== Sys2Proof/Laws/Walk.lean ====
section
/-!
SUPPORT. What the pixel walks of FULL and DELTA can do: their frame, completed or faulted.
-/

namespace Sys2Proof.Machine

/-- What a walk leaves when it completes: the framebuffer and `idx` only. -/
def WalkKeeps (s t : State) : Prop :=
  t = { s with fb := t.fb, work := { s.work with idx := t.work.idx } }

/-- What a walk leaves when it faults (R89): the framebuffer and fault entry only. -/
def WalkFaults (s t : State) : Prop :=
  (t.cause = .bodyUnderrun ∨ t.cause = .fbBounds) ∧
  t = { s with
    fb := t.fb, faulted := true, cause := t.cause, lastMore := false, busy := false,
    work := Work.idle }

/-- The framebuffer bytes outside `S`, the canonical form and the size are kept. -/
def FbKeeps (S : Nat → Prop) (s t : State) : Prop :=
  (∀ a, ¬ S a → t.fb.read a = s.fb.read a) ∧ (s.fb.wf = true → t.fb.wf = true) ∧
  (s.fb.below s.cfg.fbBytes = true → t.fb.below s.cfg.fbBytes = true)

theorem WalkKeeps.refl (s : State) : WalkKeeps s s := rfl

theorem WalkKeeps.trans {s t u : State} (h : WalkKeeps s t) (h' : WalkKeeps t u) :
    WalkKeeps s u := by
  unfold WalkKeeps at *
  rw [h']; rw [h]

theorem WalkFaults.of_keeps {s t u : State} (h : WalkKeeps s t) (h' : WalkFaults t u) :
    WalkFaults s u := by
  refine ⟨h'.1, ?_⟩
  have := h'.2
  unfold WalkKeeps at h
  rw [this, h]

theorem FbKeeps.of_fb_eq {S : Nat → Prop} {s t : State} (h : t.fb = s.fb) : FbKeeps S s t :=
  ⟨fun _ _ => by rw [h], fun hw => by rw [h, hw], fun hb => by rw [h, hb]⟩

theorem FbKeeps.trans {S : Nat → Prop} {s t u : State} (h : FbKeeps S s t) (hc : t.cfg = s.cfg)
    (h' : FbKeeps S t u) : FbKeeps S s u := by
  refine ⟨fun a ha => (h'.1 a ha).trans (h.1 a ha), fun hw => h'.2.1 (h.2.1 hw), fun hb => ?_⟩
  have := h'.2.2
  rw [hc] at this
  exact this (h.2.2 hb)

theorem WalkKeeps.cfg_eq {s t : State} (h : WalkKeeps s t) : t.cfg = s.cfg := by
  unfold WalkKeeps at h; rw [h]

theorem WalkKeeps.mirror_eq {s t : State} (h : WalkKeeps s t) : t.mirror = s.mirror := by
  unfold WalkKeeps at h; rw [h]; rfl

theorem WalkKeeps.mirrorIndex_eq {s t : State} (h : WalkKeeps s t) :
    t.mirrorIndex = s.mirrorIndex := by
  unfold WalkKeeps at h; rw [h]; rfl

theorem WalkKeeps.blockPixels_eq {s t : State} (h : WalkKeeps s t) :
    t.blockPixels = s.blockPixels := by
  unfold WalkKeeps at h; rw [h]; rfl

/-- The body bit cursor (R85). -/
theorem bodyBit_eq (s : State) :
    bodyBit s = if 8 * s.work.bodyLen ≤ s.work.idx then .raised (s.raise .bodyUnderrun)
      else .ok (s.scratchBit s.work.idx) s.nextBit := rfl

/-- Every way an operation of a walk can end. -/
def WalkSpec (S : Nat → Prop) (s : State) (r : Res Unit) : Prop :=
  (∃ t, r = .ok () t ∧ WalkKeeps s t ∧ FbKeeps S s t) ∨
  (∃ t, r = .raised t ∧ WalkFaults s t ∧ FbKeeps S s t)

theorem WalkSpec.ok_self (S : Nat → Prop) (s : State) : WalkSpec S s (.ok () s) :=
  .inl ⟨s, rfl, WalkKeeps.refl s, FbKeeps.of_fb_eq rfl⟩

theorem WalkSpec.raise_self (S : Nat → Prop) (s : State) (c : Cause)
    (h : c = .bodyUnderrun ∨ c = .fbBounds) : WalkSpec S s (.raised (s.raise c)) :=
  .inr ⟨_, rfl, ⟨h, rfl⟩, FbKeeps.of_fb_eq rfl⟩

theorem WalkSpec.of_keeps {S : Nat → Prop} {s t : State} {r : Res Unit} (hk : WalkKeeps s t)
    (hf : FbKeeps S s t) (h : WalkSpec S t r) : WalkSpec S s r := by
  obtain ⟨u, hr, hk', hf'⟩ | ⟨u, hr, hk', hf'⟩ := h
  · exact .inl ⟨u, hr, hk.trans hk', hf.trans hk.cfg_eq hf'⟩
  · exact .inr ⟨u, hr, hk'.of_keeps hk, hf.trans hk.cfg_eq hf'⟩

theorem WalkSpec.bind {S : Nat → Prop} {s : State} {r : Res Unit} {f : Unit → State → Res Unit}
    (h : WalkSpec S s r) (hf : ∀ t, WalkKeeps s t → WalkSpec S t (f () t)) :
    WalkSpec S s (r.bind f) := by
  obtain ⟨t, rfl, hk, hb⟩ | ⟨t, rfl, hk, hb⟩ := h
  · exact (hf t hk).of_keeps hk hb
  · exact .inr ⟨t, rfl, hk, hb⟩

theorem WalkSpec.bodyBit_bind {S : Nat → Prop} {s : State} {f : Bool → State → Res Unit}
    (hf : ∀ b, WalkSpec S s.nextBit (f b s.nextBit)) : WalkSpec S s ((bodyBit s).bind f) := by
  rw [bodyBit_eq]
  split_ifs
  · exact WalkSpec.raise_self S s _ (.inl rfl)
  · exact WalkSpec.of_keeps (t := s.nextBit) rfl (FbKeeps.of_fb_eq rfl) (hf _)

theorem WalkSpec.put {S : Nat → Prop} {s : State} {x y : Nat} (v : Bool)
    (hS : S (s.fbIndex x y)) :
    WalkSpec S s
      (if s.inGrid x y then .ok () (s.putPixel x y v) else .raised (s.raise .fbBounds)) := by
  split_ifs with h
  · refine .inl ⟨_, rfl, rfl, fun a ha => ?_, fun hw => Mem.wf_write _ _ hw,
      fun hb => Mem.below_write _ hb (fbIndex_lt h)⟩
    exact State.read_putPixel_ne v (fun h' => ha (h' ▸ hS))
  · exact WalkSpec.raise_self S s _ (.inr rfl)

/-- FULL's walk over `ps` touches only the bytes of the mirrors of `ps`. -/
theorem setPixels_spec {S : Nat → Prop} (ps : List (Nat × Nat)) (s : State)
    (hS : ∀ p ∈ ps, S (s.mirrorIndex p)) : WalkSpec S s (setPixels ps s) := by
  induction ps generalizing s with
  | nil => exact WalkSpec.ok_self S s
  | cons p ps ih =>
    refine WalkSpec.bodyBit_bind fun b => WalkSpec.bind ?_ fun t hk => ?_
    · rw [fbSet_eq]; exact WalkSpec.put _ (hS p (by simp))
    · refine ih t fun q hq => ?_
      rw [hk.mirrorIndex_eq]
      exact hS q (by simp [hq])

/-- The walk over a dirty block touches only the bytes of the mirrors of its pixels. -/
theorem togglePixels_spec {S : Nat → Prop} (ps : List (Nat × Nat)) (s : State)
    (hS : ∀ p ∈ ps, S (s.mirrorIndex p)) : WalkSpec S s (togglePixels ps s) := by
  induction ps generalizing s with
  | nil => exact WalkSpec.ok_self S s
  | cons p ps ih =>
    refine WalkSpec.bodyBit_bind fun d => WalkSpec.bind ?_ fun t hk => ?_
    · split_ifs
      · rw [fbInvert_eq]; exact WalkSpec.put _ (hS p (by simp))
      · exact WalkSpec.ok_self S _
    · refine ih t fun q hq => ?_
      rw [hk.mirrorIndex_eq]
      exact hS q (by simp [hq])

/-- DELTA's walk over the blocks `bs` touches only the bytes of the mirrors of their pixels. -/
theorem toggleBlocks_spec {S : Nat → Prop} (bs : List (Nat × Nat)) (s : State)
    (hS : ∀ b ∈ bs, ∀ p ∈ s.blockPixels b, S (s.mirrorIndex p)) :
    WalkSpec S s (toggleBlocks bs s) := by
  induction bs generalizing s with
  | nil => exact WalkSpec.ok_self S s
  | cons b bs ih =>
    refine WalkSpec.bodyBit_bind fun d => WalkSpec.bind ?_ fun t hk => ?_
    · split_ifs
      · exact togglePixels_spec _ _ (hS b (by simp))
      · exact WalkSpec.ok_self S _
    · refine ih t fun b' hb' p hp => ?_
      rw [hk.mirrorIndex_eq]
      rw [hk.blockPixels_eq] at hp
      exact hS b' (by simp [hb']) p hp

end Sys2Proof.Machine
end

