-- ==== Sys2Proof/Laws/Exec.lean ====
section
/-!
SUPPORT. What a record's meaning can do, said once for all records: it answers a next state, which
either completed the record or entered the fault state.
-/

namespace Sys2Proof.Machine

/-- The record completed: STEP bookkeeping, the launch and the fault registers are untouched. -/
def RecordDone (s t : State) : Prop :=
  t = { s with
    pos := t.pos, bw := t.bw, bh := t.bh, fw := t.fw, fh := t.fh, xb := t.xb, yb := t.yb,
    geomValid := t.geomValid, fb := t.fb, scratch := t.scratch, work := t.work }

/-- The record entered the fault state (R92). -/
def RecordFaulted (s t : State) : Prop :=
  t.cause ≠ .none ∧
  t = { s with
    pos := t.pos, faulted := true, cause := t.cause, lastMore := false, busy := false,
    fb := t.fb, scratch := t.scratch, work := Work.idle }

/-- What every record keeps of the spaces and the cursor. -/
structure SpacesKept (s t : State) : Prop where
  pos : PosKeeps s t
  fb_wf : s.fb.wf = true → t.fb.wf = true
  fb_below : s.fb.below s.cfg.fbBytes = true → t.fb.below s.cfg.fbBytes = true
  scratch_wf : s.scratch.wf = true → t.scratch.wf = true
  scratch_below :
    s.scratch.below s.cfg.scratchBytes = true → t.scratch.below s.cfg.scratchBytes = true

theorem SpacesKept.of_eq {s t : State} (hp : t.pos = s.pos) (hf : t.fb = s.fb)
    (hs : t.scratch = s.scratch) : SpacesKept s t :=
  ⟨fun h => by rw [hp]; exact ⟨Nat.le_refl _, h⟩, by simp [hf], by simp [hf], by simp [hs],
    by simp [hs]⟩

/-- The two frame records: FULL and DELTA are an inflate followed by a walk. -/
theorem frameRecord_spec {S : Nat → Prop} {n : Nat} {s : State} {walk : State → Res Unit}
    (hw : ∀ t, t = { s with pos := t.pos, scratch := t.scratch, work := t.work } →
      WalkSpec S t (walk t)) :
    ∃ t, ((inflate n s).bind fun _ u => walk u).outcome = .next t ∧
      (t = { s with pos := t.pos, scratch := t.scratch, fb := t.fb, work := t.work } ∨
        RecordFaulted s t) ∧
      (∀ a, ¬ S a → t.fb.read a = s.fb.read a) ∧
      (∀ a, n ≤ a → t.scratch.read a = s.scratch.read a) ∧ SpacesKept s t := by
  obtain ⟨u, hu, hk, -, -, hs, hp, hn⟩ | ⟨u, hu, hf, hs, hp, hb⟩ := inflate_spec n s
  · have hfb : u.fb = s.fb := by rw [hk]
    have hcf : u.cfg = s.cfg := by rw [hk]
    have hb := hs.2.2 _ hn
    obtain ⟨t, ht, hwk, hwf⟩ | ⟨t, ht, hwk, hwf⟩ := hw u hk
    all_goals
      have hpt : t.pos = u.pos := by first | (unfold WalkKeeps at hwk; rw [hwk]) | rw [hwk.2]
      have hst : t.scratch = u.scratch := by
        first | (unfold WalkKeeps at hwk; rw [hwk]) | rw [hwk.2]
      refine ⟨t, by simp [hu, ht, Res.outcome, Res.state], ?_, ?_, ?_, ?_⟩
    · left; unfold WalkKeeps at hwk; rw [hwk, hk]
    · exact fun a ha => by rw [hwf.1 a ha, hfb]
    · exact fun a ha => by rw [hst]; exact hs.1 a ha
    · refine ⟨?_, ?_, ?_, ?_, ?_⟩
      · unfold PosKeeps; rw [hpt]; exact hp
      · intro h; exact hwf.2.1 (by rwa [hfb])
      · intro h; have := hwf.2.2; rw [hcf, hfb] at this; exact this h
      · intro h; rw [hst]; exact hs.2.1 h
      · intro h; rw [hst]; exact hb h
    · right
      refine ⟨by rcases hwk.1 with h | h <;> simp [h], ?_⟩
      rw [hwk.2, hk]
    · exact fun a ha => by rw [hwf.1 a ha, hfb]
    · exact fun a ha => by rw [hst]; exact hs.1 a ha
    · refine ⟨?_, ?_, ?_, ?_, ?_⟩
      · unfold PosKeeps; rw [hpt]; exact hp
      · intro h; exact hwf.2.1 (by rwa [hfb])
      · intro h; have := hwf.2.2; rw [hcf, hfb] at this; exact this h
      · intro h; rw [hst]; exact hs.2.1 h
      · intro h; rw [hst]; exact hb h
  · have hfb : u.fb = s.fb := by rw [hf.2]
    refine ⟨u, by simp [hu, Res.outcome, Res.state], ?_, ?_, hs.1, ?_⟩
    · right
      refine ⟨by rcases hf.1 with h | h | h <;> simp [h], ?_⟩
      have h := hf.2
      have h' : u = { s with
        pos := u.pos, faulted := true, cause := u.cause, lastMore := false, busy := false,
        fb := s.fb, scratch := u.scratch, work := Work.idle } := h
      rw [hfb]; exact h'
    · exact fun a _ => by rw [hfb]
    · exact ⟨hp, by simp [hfb], by simp [hfb], hs.2.1, hb⟩

/-- FULL (R86), completed or faulted. -/
theorem execFull_spec (s : State) :
    ∃ t, exec .full s = .next t ∧
      (t = { s with pos := t.pos, scratch := t.scratch, fb := t.fb, work := t.work } ∨
        RecordFaulted s t) ∧
      (∀ a, (∀ p ∈ s.visited, a ≠ s.mirrorIndex p) → t.fb.read a = s.fb.read a) ∧
      (∀ a, s.fullLen ≤ a → t.scratch.read a = s.scratch.read a) ∧ SpacesKept s t := by
  obtain ⟨t, h1, h2, h3, h4, h5⟩ := frameRecord_spec (S := fun a => ∃ p ∈ s.visited, a = s.mirrorIndex p)
    (n := s.fullLen) (s := s) (walk := fun t => setPixels t.visited t) (fun t ht => by
      have hv : t.visited = s.visited := by rw [ht]; rfl
      have hm : t.mirrorIndex = s.mirrorIndex := by rw [ht]; rfl
      rw [hv]
      exact setPixels_spec _ _ fun p hp => ⟨p, hp, by rw [hm]⟩)
  exact ⟨t, h1, h2, fun a ha => h3 a (by rintro ⟨p, hp, rfl⟩; exact ha p hp rfl), h4, h5⟩

/-- DELTA (R87), completed or faulted. -/
theorem execDelta_spec (len : Half) (s : State) :
    ∃ t, exec (.delta len) s = .next t ∧
      (t = { s with pos := t.pos, scratch := t.scratch, fb := t.fb, work := t.work } ∨
        RecordFaulted s t) ∧
      (∀ a, (∀ p ∈ s.visited, a ≠ s.mirrorIndex p) → t.fb.read a = s.fb.read a) ∧
      (∀ a, len.toNat ≤ a → t.scratch.read a = s.scratch.read a) ∧ SpacesKept s t := by
  obtain ⟨t, h1, h2, h3, h4, h5⟩ := frameRecord_spec (S := fun a => ∃ p ∈ s.visited, a = s.mirrorIndex p)
    (n := len.toNat) (s := s) (walk := fun t => toggleBlocks t.blocks t) (fun t ht => by
      have hb : t.blocks = s.blocks := by rw [ht]; rfl
      have hx : t.blockPixels = s.blockPixels := by rw [ht]; rfl
      have hm : t.mirrorIndex = s.mirrorIndex := by rw [ht]; rfl
      rw [hb]
      refine toggleBlocks_spec _ _ fun b hb p hp => ⟨p, ?_, by rw [hm]⟩
      rw [hx] at hp
      exact List.mem_flatMap.mpr ⟨b, hb, hp⟩)
  exact ⟨t, h1, h2, fun a ha => h3 a (by rintro ⟨p, hp, rfl⟩; exact ha p hp rfl), h4, h5⟩

/-- Every record's meaning answers a next state, completed or faulted (R68, R92). -/
theorem exec_record {i : Instr} (hi : i.isRecord = true) (s : State) :
    ∃ t, exec i s = .next t ∧ (RecordDone s t ∨ RecordFaulted s t) ∧ SpacesKept s t := by
  have hframe : ∀ t, t = { s with pos := t.pos, scratch := t.scratch, fb := t.fb, work := t.work } →
      RecordDone s t := by
    intro t ht
    unfold RecordDone
    rw [ht]
  have hraise : ∀ c, c ≠ Cause.none → RecordFaulted s (s.raise c) := fun c hc => ⟨hc, rfl⟩
  cases i with
  | init a b c d =>
    refine ⟨_, rfl, ?_, ?_⟩
    · split_ifs
      · exact .inr (hraise _ (by decide))
      · exact .inl rfl
    · split_ifs <;> exact SpacesKept.of_eq rfl rfl rfl
  | full =>
    obtain ⟨t, h1, h2, -, -, h5⟩ := execFull_spec s
    exact ⟨t, h1, h2.imp (hframe t) id, h5⟩
  | nop => exact ⟨s, rfl, .inl rfl, SpacesKept.of_eq rfl rfl rfl⟩
  | delta len =>
    obtain ⟨t, h1, h2, -, -, h5⟩ := execDelta_spec len s
    exact ⟨t, h1, h2.imp (hframe t) id, h5⟩
  | illegal04 op => exact ⟨_, rfl, .inr (hraise _ (by decide)), SpacesKept.of_eq rfl rfl rfl⟩
  | illegal08 op => exact ⟨_, rfl, .inr (hraise _ (by decide)), SpacesKept.of_eq rfl rfl rfl⟩
  | illegal10 op => exact ⟨_, rfl, .inr (hraise _ (by decide)), SpacesKept.of_eq rfl rfl rfl⟩
  | illegal20 op => exact ⟨_, rfl, .inr (hraise _ (by decide)), SpacesKept.of_eq rfl rfl rfl⟩
  | illegal40 op => exact ⟨_, rfl, .inr (hraise _ (by decide)), SpacesKept.of_eq rfl rfl rfl⟩
  | illegal80 op => exact ⟨_, rfl, .inr (hraise _ (by decide)), SpacesKept.of_eq rfl rfl rfl⟩
  | lit b => simp [Instr.isRecord] at hi
  | run b n => simp [Instr.isRecord] at hi

end Sys2Proof.Machine
end

