-- ==== Sys2Proof/Laws/PerInstr.lean ====
section
/-!
SUPPORT. The family TableRow: the words of every instruction lie in its row of
spec/opcode_table.json, by mask, match and fixed length.
-/

namespace Sys2Proof.Laws

/-- The row's mask and match on byte 0; the token rows have no opcode bits (R47). -/
def rowBits : Instr → Option (Byte × Byte)
  | .init _ _ _ _ => some (0xFF, 0x00)
  | .full => some (0xFF, 0x01)
  | .nop => some (0xFF, 0x02)
  | .delta _ => some (0xFF, 0x03)
  | .illegal04 _ => some (0xFC, 0x04)
  | .illegal08 _ => some (0xF8, 0x08)
  | .illegal10 _ => some (0xF0, 0x10)
  | .illegal20 _ => some (0xE0, 0x20)
  | .illegal40 _ => some (0xC0, 0x40)
  | .illegal80 _ => some (0x80, 0x80)
  | .lit _ => none
  | .run _ _ => none

/-- The row's length in bytes, of FULL and DELTA without the body (R52). -/
def rowLength : Instr → Nat
  | .init _ _ _ _ => 5
  | .full => 1
  | .nop => 1
  | .delta _ => 3
  | .illegal04 _ => 1
  | .illegal08 _ => 1
  | .illegal10 _ => 1
  | .illegal20 _ => 1
  | .illegal40 _ => 1
  | .illegal80 _ => 1
  | .lit _ => 1
  | .run _ _ => 3

/-- A well-formed instruction's bytes have its row's length and its row's bits. -/
def TableRow.Statement (i : Instr) : Prop :=
  i.wellFormed = true →
    (encode i).length = rowLength i ∧
    ∀ row, rowBits i = some row → ∃ op rest, encode i = op :: rest ∧ op &&& row.1 = row.2

/-- What the one-byte rows share: well-formedness is the row's own condition. -/
theorem inRow_bits {mask pattern op : Byte} (h : inRow mask pattern op = true) :
    [op].length = 1 ∧ ∀ row, some (mask, pattern) = some row →
      ∃ o rest, [op] = o :: rest ∧ o &&& row.1 = row.2 := by
  refine ⟨rfl, ?_⟩
  rintro _ ⟨⟩
  exact ⟨op, [], rfl, by simpa [inRow] using h⟩

theorem TableRow.init (bw bh fw fh : Byte) : Statement (.init bw bh fw fh) := by
  refine fun _ => ⟨rfl, ?_⟩
  rintro _ ⟨⟩
  exact ⟨_, _, rfl, by decide⟩

theorem TableRow.full : Statement .full := by
  refine fun _ => ⟨rfl, ?_⟩
  rintro _ ⟨⟩
  exact ⟨_, _, rfl, by decide⟩

theorem TableRow.nop : Statement .nop := by
  refine fun _ => ⟨rfl, ?_⟩
  rintro _ ⟨⟩
  exact ⟨_, _, rfl, by decide⟩

theorem TableRow.delta (len : Half) : Statement (.delta len) := by
  refine fun _ => ⟨rfl, ?_⟩
  rintro _ ⟨⟩
  exact ⟨_, _, rfl, by decide⟩

theorem TableRow.illegal04 (op : Byte) : Statement (.illegal04 op) := fun h => inRow_bits h

theorem TableRow.illegal08 (op : Byte) : Statement (.illegal08 op) := fun h => inRow_bits h

theorem TableRow.illegal10 (op : Byte) : Statement (.illegal10 op) := fun h => inRow_bits h

theorem TableRow.illegal20 (op : Byte) : Statement (.illegal20 op) := fun h => inRow_bits h

theorem TableRow.illegal40 (op : Byte) : Statement (.illegal40 op) := fun h => inRow_bits h

theorem TableRow.illegal80 (op : Byte) : Statement (.illegal80 op) := fun h => inRow_bits h

theorem TableRow.lit (b : Byte) : Statement (.lit b) := by
  refine fun _ => ⟨rfl, ?_⟩
  rintro _ ⟨⟩

theorem TableRow.run (b n : Byte) : Statement (.run b n) := by
  refine fun _ => ⟨rfl, ?_⟩
  rintro _ ⟨⟩

end Sys2Proof.Laws
end

