-- ==== Sys2Proof/Laws/Step.lean ====
section
/-!
SUPPORT. What one STEP can do (R68, R69): each of the ways it ends.
-/

namespace Sys2Proof.Machine

/-- The asset is cut short inside a record's fixed part: what the STEP leaves. -/
def CutShort (s t : State) : Prop :=
  (t = ((s.accept.noteOpcode 0x00).advance s.ahead.length).raise .readPastEnd ∧
    s.ahead.head? = some 0x00 ∧ s.ahead.length < 5) ∨
  (t = ((s.accept.noteOpcode 0x03).advance 1).raise .readPastEnd ∧
    s.ahead.head? = some 0x03 ∧ s.ahead.length < 3)

/-- The state in which the record `i` at the cursor runs: busy, its opcode noted, its fixed part
consumed. -/
def State.atRecord (i : Instr) (s : State) : State :=
  (s.accept.noteOpcode ((encode i).headD 0)).advance (encode i).length

/-- Every way a STEP can end. -/
theorem step_cases (s : State) :
    (s.busy = true ∧ step s = .refused .stepWhileBusy) ∨
    (s.busy = false ∧ s.faulted = true ∧ step s = .next s) ∨
    (s.busy = false ∧ s.faulted = false ∧ s.ahead = [] ∧ step s = .next s.accept.endOfStream) ∨
    (s.busy = false ∧ s.faulted = false ∧ ∃ t, step s = .next t ∧ CutShort s t) ∨
    (s.busy = false ∧ s.faulted = false ∧ ∃ i rest, decode s.ahead = .instr i rest ∧
      i.wellFormed = true ∧ i.isRecord = true ∧ s.ahead = encode i ++ rest ∧
      ∃ t, exec i (s.atRecord i) = .next t ∧
        (RecordDone (s.atRecord i) t ∨ RecordFaulted (s.atRecord i) t) ∧
        SpacesKept (s.atRecord i) t ∧
        step s = .next (if t.faulted then t else t.returnMore)) := by
  cases hb : s.busy with
  | true => left; simp [step, beginStep, hb]
  | false =>
    right
    cases hf : s.faulted with
    | true => left; simp [step, beginStep, hb, hf]
    | false =>
      right
      have hacc : s.accept.atEnd = s.atEnd := rfl
      by_cases he : s.ahead = []
      · left
        have : s.atEnd = true := by
          simpa only [State.atEnd, decide_eq_true_eq] using State.ahead_eq_nil.mp he
        exact ⟨rfl, rfl, he, by simp [step, beginStep, hb, hf, hacc, this]⟩
      · right
        have hne : s.atEnd = false := by
          simpa only [State.atEnd, decide_eq_false_iff_not] using mt State.ahead_eq_nil.mpr he
        cases hd : decode s.ahead with
        | rejected e =>
          left
          refine ⟨rfl, rfl, ?_⟩
          have hd' : decode s.accept.ahead = .rejected e := by rw [State.ahead_accept, hd]
          obtain ⟨-, h⟩ | ⟨-, hl, hh, h⟩ | ⟨-, hl, hh, h⟩ := fetchRecord_rejected hd'
          · rw [State.ahead_accept] at h; exact absurd h he
          · rw [State.ahead_accept] at hl hh h
            exact ⟨_, by simp [step, beginStep, hb, hf, hacc, hne, h], .inl ⟨rfl, hh, hl⟩⟩
          · rw [State.ahead_accept] at hl hh
            exact ⟨_, by simp [step, beginStep, hb, hf, hacc, hne, h], .inr ⟨rfl, hh, hl⟩⟩
        | instr i rest =>
          right
          refine ⟨rfl, rfl, i, rest, rfl, ?_⟩
          have hd' : decode s.accept.ahead = .instr i rest := by rw [State.ahead_accept, hd]
          obtain ⟨hw, hr, ha, hfe⟩ := fetchRecord_instr hd'
          rw [State.ahead_accept] at ha
          obtain ⟨t, ht, hk, hs⟩ := exec_record hr (s.atRecord i)
          refine ⟨hw, hr, ha, t, ht, hk, hs, ?_⟩
          have hfe' : fetchRecord s.accept = .ok i (s.atRecord i) := hfe
          simp [step, beginStep, hb, hf, hacc, hne, hfe', ht, finishStep]

end Sys2Proof.Machine
end

