-- ==== Sys2Proof/Tests/Slice0.lean ====
section
/-!
SUPPORT. Tests against spec/95_test_vectors.md (each names its vector) and words written out from
the formats of 30_encoding.md; then, for every obligation with hypotheses, a witness that meets them.
-/

namespace Sys2Proof.Tests

open Sys2Proof.Machine

/-! Helpers. -/

/-- The state an outcome gives, if it gives one. -/
def nextOf : Host.Outcome State Fault Refusal → Option State
  | .next s => some s
  | .fault _ => none
  | .refused _ => none

/-- The value an operation of a STEP gives, if it completes. -/
def valueOf {α : Type} : Res α → Option α
  | .ok a _ => some a
  | .raised _ => none

/-- Reset with the asset `bs`, in the reference configuration. -/
def fresh (bs : List Byte) : State :=
  State.launch Config.reference (placeBytes bs 0 []) (BitVec.ofNat 32 bs.length)

/-- READY with this geometry, the cursor at the first byte of `bs`. -/
def ready (a b c d : Byte) (bs : List Byte) : State := (fresh bs).setGeometry a b c d

/-- Inside a body of `target` bytes, `out` of them produced. -/
def inBody (target out : Nat) (bs : List Byte) : State :=
  { fresh bs with work := { bodyLen := target, out := out, idx := 0 } }

/-- The framebuffer bytes `0 .. n-1` after an outcome. -/
def fbAfter (n : Nat) (r : Host.Outcome State Fault Refusal) : Option (List Byte) :=
  (nextOf r).map fun t => (List.range n).map t.fb.read

/-- Result, cursor, cause code and STATUS after an outcome. -/
def summary (r : Host.Outcome State Fault Refusal) : Option (StepResult × Nat × Nat × Nat) :=
  (nextOf r).map fun t => (t.result, t.pos.toNat, t.cause.code.toNat, t.statusWord.toNat)

/-! WellFormed refuses an opcode byte that is not its row's. -/

theorem test_illformed_04 : (Instr.illegal04 3).wellFormed = false ∧
    (Instr.illegal04 8).wellFormed = false := by decide

theorem test_illformed_08 : (Instr.illegal08 7).wellFormed = false ∧
    (Instr.illegal08 16).wellFormed = false := by decide

theorem test_illformed_10 : (Instr.illegal10 0x0F).wellFormed = false ∧
    (Instr.illegal10 0x20).wellFormed = false := by decide

theorem test_illformed_20 : (Instr.illegal20 0x1F).wellFormed = false ∧
    (Instr.illegal20 0x40).wellFormed = false := by decide

theorem test_illformed_40 : (Instr.illegal40 0x3F).wellFormed = false ∧
    (Instr.illegal40 0x80).wellFormed = false := by decide

theorem test_illformed_80 : (Instr.illegal80 0x7F).wellFormed = false ∧
    (Instr.illegal80 0x00).wellFormed = false := by decide

/-! Decoding: words from the formats of 30_encoding.md. -/

/-- S3, R43: the INIT body `[4,2,84,48]`. -/
theorem test_decode_init : decode [0x00, 0x04, 0x02, 0x54, 0x30] = .instr (.init 4 2 84 48) [] ∧
    decode [0x00, 0x04, 0x02, 0x54] = .rejected .initCutShort := by decide

/-- R44: FULL is one byte, its body the tokens after it. -/
theorem test_decode_full : decode [0x01, 0x0F, 0x03] = .instr .full [0x0F, 0x03] := by decide

/-- R45. -/
theorem test_decode_nop : decode [0x02] = .instr .nop [] := by decide

/-- R46: the low byte of the length comes first. -/
theorem test_decode_delta : decode [0x03, 0x34, 0x12, 0x99] = .instr (.delta 4660) [0x99] ∧
    decode [0x03, 0x05] = .rejected .deltaCutShort := by decide

/-- R42, R51: the first and the last opcode of each ILLEGAL row. -/
theorem test_decode_illegal :
    decode [0x04] = .instr (.illegal04 0x04) [] ∧ decode [0x07] = .instr (.illegal04 0x07) [] ∧
    decode [0x08] = .instr (.illegal08 0x08) [] ∧ decode [0x0F] = .instr (.illegal08 0x0F) [] ∧
    decode [0x10] = .instr (.illegal10 0x10) [] ∧ decode [0x1F] = .instr (.illegal10 0x1F) [] ∧
    decode [0x20] = .instr (.illegal20 0x20) [] ∧ decode [0x3F] = .instr (.illegal20 0x3F) [] ∧
    decode [0x40] = .instr (.illegal40 0x40) [] ∧ decode [0x7F] = .instr (.illegal40 0x7F) [] ∧
    decode [0x80] = .instr (.illegal80 0x80) [] ∧ decode [0xFF] = .instr (.illegal80 0xFF) [] := by
  decide

/-- R47: the two token forms, and the literal at the end of the asset (R64, I7). -/
theorem test_decode_tokens : decodeToken [0x01, 0x02] = .instr (.lit 1) [0x02] ∧
    decodeToken [0x09] = .instr (.lit 9) [] ∧
    decodeToken [0x05, 0x05, 0x02] = .instr (.run 5 2) [] ∧
    decodeToken [0x09, 0x09] = .rejected .runCutShort := by decide

/-- R46: what the encoder writes for a DELTA, and R47 for a run. -/
theorem test_encode : encode (.delta 4660) = [0x03, 0x34, 0x12] ∧
    encode (.run 5 2) = [0x05, 0x05, 0x02] := by decide

/-- The opcode table's numbering: byte `k` is bits `8k+7..8k`. -/
theorem test_table_word : decodeTableWord 40 0x3054020400 = some (.init 4 2 84 48) ∧
    decodeTableWord 24 0x123403 = some (.delta 0x1234) ∧
    decodeTableWord 8 0xFF = some (.illegal80 0xFF) := by decide

/-- A table word placed at reset is the next record that runs. -/
theorem test_fetch_word :
    summary (step (State.reset.withFetchWord 8 0x02)) = some (.more, 1, 0, 0x10) ∧
    summary (step (State.reset.withFetchWord 8 0x07)) = some (.fault, 1, 1, 0x08) := by decide

/-! The cursor: BC1 to BC6. -/

theorem test_read_u16 : valueOf (readU16 (fresh [0x34, 0x12])) = some 0x1234 ∧
    (readU16 (fresh [0x34, 0x12])).state.atEnd = true := by decide

theorem test_read_u16_short : (readU16 (fresh [0x05])).state.cause = .readPastEnd ∧
    (readU16 (fresh [0x05])).state.pos = 0 := by decide

theorem test_read_u8_end : valueOf (readU8 (fresh [0x07])) = some 0x07 ∧
    (readU8 (readU8 (fresh [0x07])).state).state.cause = .readPastEnd ∧
    (readU8 (readU8 (fresh [0x07])).state).state.pos = 1 := by decide

theorem test_peek_u8 : valueOf (peekU8 { fresh [0x05, 0x05, 0x02] with pos := 1 }) = some 0x05 ∧
    (peekU8 { fresh [0x05, 0x05, 0x02] with pos := 1 }).state.pos = 1 := by decide

/-! STEP. -/

/-- G8: an empty asset. -/
theorem test_step_end : summary (step (fresh [])) = some (.ended, 0, 0, 0x04) ∧
    nextOf (step (fresh [])) = some (fresh []) := by decide

/-- X5, X1: `rst` after a fault. -/
theorem test_rst : (fresh [0x07]).rst = fresh [0x07] ∧
    (step (fresh [0x07]) |> nextOf).map State.rst = some (fresh [0x07]) := by decide

/-- G1, S3. -/
theorem test_init : summary (step (fresh [0x00, 0x04, 0x02, 0x54, 0x30])) =
      some (.more, 5, 0, 0x16) ∧
    (nextOf (step (fresh [0x00, 0x04, 0x02, 0x54, 0x30]))).map
      (fun t => (t.geomWord, t.blocksWord, t.lastOpWord)) =
      some (0x30540204, 0x00001815, 0x100) := by decide

/-- G2: a zero block width; G3: no body byte. -/
theorem test_init_faults :
    summary (step (fresh [0x00, 0x00, 0x02, 0x08, 0x08])) = some (.fault, 5, 4, 0x0C) ∧
    summary (step (fresh [0x00])) = some (.fault, 1, 2, 0x0C) := by decide

/-- G5. -/
theorem test_nop : summary (step (fresh [0x02])) = some (.more, 1, 0, 0x14) ∧
    (nextOf (step (fresh [0x02]))).map State.lastOpWord = some 0x102 := by decide

/-- P3, S7, X2. -/
theorem test_illegal04 : summary (step (fresh [0x07])) = some (.fault, 1, 1, 0x0C) ∧
    (nextOf (step (fresh [0x07]))).map State.lastOpWord = some 0x107 := by decide

theorem test_illegal08 : summary (step (fresh [0x08, 0x00])) = some (.fault, 1, 1, 0x08) := by
  decide

theorem test_illegal10 : summary (step (fresh [0x1F, 0x00])) = some (.fault, 1, 1, 0x08) := by
  decide

theorem test_illegal20 : summary (step (fresh [0x20, 0x00])) = some (.fault, 1, 1, 0x08) := by
  decide

theorem test_illegal40 : summary (step (fresh [0x7F, 0x00])) = some (.fault, 1, 1, 0x08) := by
  decide

/-- G6. -/
theorem test_illegal80 : summary (step (fresh [0xFF])) = some (.fault, 1, 1, 0x0C) ∧
    (nextOf (step (fresh [0xFF]))).map State.lastOpWord = some 0x1FF := by decide

/-- F1: FULL with the body `0F`. -/
theorem test_full : summary (step (ready 2 2 4 2 [0x01, 0x0F])) = some (.more, 2, 0, 0x16) ∧
    fbAfter 6 (step (ready 2 2 4 2 [0x01, 0x0F])) = some [0, 6, 6, 0, 0, 0] := by decide

/-- F4: the first pixel mirrors outside the storage. -/
theorem test_full_bounds :
    summary (step (ready 1 1 90 1 [0x01, 0x00, 0x00, 0x0B])) = some (.fault, 4, 6, 0x0E) ∧
    fbAfter 4 (step (ready 1 1 90 1 [0x01, 0x00, 0x00, 0x0B])) = some [0, 0, 0, 0] := by decide

/-- P2, STEP 3: DELTA with the body `13`. -/
theorem test_delta :
    fbAfter 6 (step { ready 2 2 4 2 [0x03, 0x01, 0x00, 0x13] with fb := [(1, 6), (2, 6)] }) =
      some [0, 6, 6, 2, 4, 0] ∧
    summary (step (ready 2 2 4 2 [0x03, 0x01, 0x00, 0x13])) = some (.more, 4, 0, 0x16) := by decide

/-- F5: a body that runs out leaves the partial frame. -/
theorem test_delta_underrun :
    fbAfter 10 (step (ready 1 1 8 1 [0x03, 0x01, 0x00, 0xFF])) =
      some [0, 0, 0, 0, 0, 2, 2, 2, 2, 0] ∧
    summary (step (ready 1 1 8 1 [0x03, 0x01, 0x00, 0xFF])) = some (.fault, 4, 5, 0x0E) := by decide

/-- X4: a target above the scratch capacity, nothing of the body consumed. -/
theorem test_scratch_overflow :
    summary (step { ready 1 1 8 1 [0x03, 0x05, 0x00, 1, 2, 3, 4, 6] with
      cfg := { fbStride := 85, fbPages := 7, scratchBytes := 4 } }) = some (.fault, 3, 7, 0x0A) := by
  decide

/-- R61: a literal. -/
theorem test_lit : (nextOf (exec (.lit 9) (inBody 3 1 []))).map
    (fun t => (t.work.out, t.scratch)) = some (2, [(1, 9)]) := by decide

/-- I7: the last byte of the asset is a literal; I2. -/
theorem test_inflate_lit : (inflate 1 (fresh [9])).state.scratch = [(0, 9)] ∧
    (inflate 3 (fresh [1, 2, 3, 0])).state.scratch = [(0, 1), (1, 2), (2, 3)] ∧
    (inflate 3 (fresh [1, 2, 3, 0])).state.pos = 3 := by decide

/-- S2, I5: a run up to the target. -/
theorem test_run : (nextOf (exec (.run 5 2) (inBody 3 0 []))).map
    (fun t => (t.work.out, t.scratch)) = some (3, [(0, 5), (1, 5), (2, 5)]) := by decide

/-- I6: a run past the target writes nothing; I8: no count byte. -/
theorem test_run_faults : (inflate 3 (fresh [7, 7, 3, 0])).state.cause = .runOverrun ∧
    (inflate 3 (fresh [7, 7, 3, 0])).state.scratch = [] ∧
    (inflate 3 (fresh [7, 7, 3, 0])).state.pos = 3 ∧
    (inflate 1 (fresh [9, 9])).state.cause = .readPastEnd ∧
    (inflate 1 (fresh [9, 9])).state.pos = 2 := by decide

/-! The framebuffer: B1, B3, B5, B7, B8, B9. -/

theorem test_fb_set : (fbSet 3 9 true (fresh [])).state.fb = [(88, 0x02)] ∧
    (fbSet 5 3 false { fresh [] with fb := [(5, 0xFF)] }).state.fb = [(5, 0xF7)] := by decide

theorem test_fb_bounds : (fbSet 85 0 true (fresh [])).state.cause = .fbBounds ∧
    (fbGet 0 56 (fresh [])).state.cause = .fbBounds := by decide

theorem test_fb_invert :
    (fbInvert 1 1 { fresh [] with fb := [(1, 0x06)] }).state.fb = [(1, 0x04)] := by decide

theorem test_mirror : (ready 4 2 84 48 []).mirror (0, 0) = (84, 48) ∧
    (ready 4 2 84 48 []).mirror (83, 47) = (1, 1) := by decide

theorem test_display : readDisplay 0 7 { fresh [] with fb := [(7, 0xA5)] } = 0xA5 ∧
    readDisplay 0 595 { fresh [] with fb := [(7, 0xA5)] } = 0x00 := by decide

/-- X6. -/
theorem test_register_absent : readRegister 0 6 (fresh [1]) = 0 ∧
    readRegister 0 100 (fresh [1]) = 0 := by decide

/-- F7: the body bits of the byte `13`. -/
theorem test_body_bits : bodyBits [0x13] =
    [true, true, false, false, true, false, false, false] := by decide

/-! The assembly notation: P2's text, and R53's refused literal. -/

theorem test_assemble :
    assemble [.init 2 2 4 2, .full [.lit 0x0F], .delta 1 [.lit 0x13], .nop] =
      .ok [0, 2, 2, 4, 2, 1, 0x0F, 3, 1, 0, 0x13, 2] ∧
    assemble [.init 1 1 8 1, .full [.lit 3], .delta 0 []] = .refused .literalRepeats := by decide

theorem test_rep : asmTokens [.rep 0 256, .rep 5 1] none = .ok [.run 0 255, .run 5 0] := by decide

/-! Witnesses: for each obligation with hypotheses, states and operands that meet them, one for each
clause, at the ends of the clause's range. -/

theorem test_meets_DecodeOfEncodedRecord :
    (Instr.illegal04 4).wellFormed = true ∧ (Instr.illegal04 4).isRecord = true ∧
    (Instr.delta 0xFFFF).wellFormed = true ∧ (Instr.delta 0xFFFF).isRecord = true := by decide

theorem test_meets_DecodedRecordIsItsEncoding :
    decode [0x03, 0xFF, 0x00, 0x07] = .instr (.delta 0x00FF) [0x07] := by decide

theorem test_meets_DecodeOfEncodedToken :
    ∀ b, Token.lit 9 = .lit b → [(8 : Byte)].head? ≠ some b := by
  rintro b ⟨⟩
  decide

theorem test_meets_DecodedTokenIsItsEncoding :
    decodeToken [5, 5, 2] = .instr (.run 5 2) [] := by decide

theorem test_meets_OpcodeMap : 4 ≤ (0x04 : Byte).toNat ∧ 4 ≤ (0xFF : Byte).toNat := by decide

theorem test_meets_StepRunsDecodedRecord : (fresh [0x02]).busy = false ∧
    (fresh [0x02]).faulted = false ∧ decode (fresh [0x02]).ahead = .instr .nop [] := by decide

theorem test_meets_RecordCutShortFaults : (fresh [0x00]).busy = false ∧
    (fresh [0x00]).faulted = false ∧ decode (fresh [0x00]).ahead = .rejected .initCutShort ∧
    decode (fresh [0x00, 1, 1, 1]).ahead = .rejected .initCutShort ∧
    (fresh [0x03]).busy = false ∧ (fresh [0x03]).faulted = false ∧
    decode (fresh [0x03]).ahead = .rejected .deltaCutShort ∧
    decode (fresh [0x03, 0x05]).ahead = .rejected .deltaCutShort := by decide

theorem test_meets_EndIsRepeatable : (fresh []).busy = false ∧ (fresh []).faulted = false ∧
    (fresh []).assetLen.toNat ≤ (fresh []).pos.toNat := by decide

theorem test_meets_FaultStateIsSticky : ((fresh [7]).raise .unrecognizedOpcode).busy = false ∧
    ((fresh [7]).raise .unrecognizedOpcode).faulted = true := by decide

/-- Every host move of the clause: the ones that change nothing, and the STEP request. -/
theorem test_meets_FaultStateIsSticky_moves (d n i : Nat) (v : Word) :
    let s := (fresh [7]).raise .unrecognizedOpcode
    hostMove .stepReq s = .next (s, .result .fault) ∧
    hostMove (.readReg d n) s = .next (s, .word (readRegister d n s)) ∧
    hostMove (.writeReg n v) s = .next (s, .done) ∧
    hostMove (.readFb d i) s = .next (s, .byte (readDisplay d i s)) := ⟨rfl, rfl, rfl, rfl⟩

theorem test_meets_StepWhileBusyRefused : (fresh [2]).accept.busy = true := by decide

theorem test_meets_EveryStepCompletes : (fresh [2]).busy = false ∧
    (fresh [2]).work = Work.idle := by decide

/-- The three results. -/
theorem test_meets_FaultsAreNotEndOfStream :
    (fresh [7]).busy = false ∧
    (nextOf (step (fresh [7]))).map (fun t => (t.faulted, t.result)) = some (true, .fault) ∧
    (nextOf (step (fresh []))).map State.result = some .ended ∧
    (nextOf (step (fresh [2]))).map State.result = some .more := by decide

theorem test_meets_FaultingStepFrame : (fresh [3]).busy = false ∧ (fresh [3]).faulted = false ∧
    (nextOf (step (fresh [3]))).map State.faulted = some true := by decide

/-- The clauses of FaultingStepFrame: a FULL and a DELTA that fault in the walk, and a DELTA whose target
exceeds the capacity. -/
theorem test_meets_FaultingStepFrame_clauses :
    let full := ready 1 1 90 1 [0x01, 0x00, 0x00, 0x0B]
    let delta := ready 1 1 8 1 [0x03, 0x01, 0x00, 0xFF]
    let tooBig := { delta with cfg := { fbStride := 85, fbPages := 7, scratchBytes := 0 } }
    full.assetByte full.pos.toNat = 0x01 ∧ delta.assetByte delta.pos.toNat = 0x03 ∧
    (nextOf (step full)).map State.cause = some .fbBounds ∧
    (nextOf (step delta)).map State.cause = some .bodyUnderrun ∧
    (nextOf (step tooBig)).map State.cause = some .scratchOverflow := by decide

theorem test_meets_CursorIsMonotone : (fresh [2]).pos.toNat ≤ (fresh [2]).assetLen.toNat ∧
    (nextOf (step (fresh [2]))).isSome = true := by decide

theorem test_meets_AssetIsImmutable :
    (nextOf (exec .full (ready 2 2 4 2 [0x0F]))).isSome = true := by decide

theorem test_meets_OnlyInitWritesGeometry : (∀ a b c d, Instr.full ≠ .init a b c d) ∧
    (nextOf (exec .full (ready 2 2 4 2 [0x0F]))).isSome = true := ⟨by simp, by decide⟩

theorem test_meets_StepKeepsInvariant : (fresh [2]).Inv ∧
    (nextOf (step (fresh [2]))).isSome = true := by
  refine ⟨?_, by decide⟩
  constructor <;> decide

theorem test_meets_InvariantAtLaunch : Config.reference.legal = true ∧
    Config.legal { fbStride := 256, fbPages := 32, scratchBytes := 0 } = true ∧
    Mem.wf [(0, 1), (2, 5)] = true ∧ Mem.below (3 : Word).toNat [(0, 1), (2, 5)] = true := by decide

theorem test_meets_ResetLeavesResetState :
    hostMove .rst ((fresh [7]).raise .unrecognizedOpcode) = .next (fresh [7], .done) ∧
    hostMove .rst (fresh []) = .next (fresh [], .done) ∧
    0 < (fresh [7]).assetLen.toNat := ⟨rfl, rfl, by decide⟩

theorem test_meets_MoreStepsConsumeBytes : (fresh [2, 2]).busy = false ∧
    (fresh [2, 2]).pos.toNat ≤ (fresh [2, 2]).assetLen.toNat ∧
    (moreSteps 1 (fresh [2, 2])).isSome = true := by decide

theorem test_meets_PlaybackEnds : (fresh [2]).busy = false ∧
    (fresh [2]).pos.toNat ≤ (fresh [2]).assetLen.toNat := by decide

theorem test_meets_InitWritesGeometry : (1 : Byte) ≠ 0 ∧ (255 : Byte) ≠ 0 := by decide

theorem test_meets_InitZeroDimensionFaults : ((0 : Byte) = 0 ∨ (1 : Byte) = 0) ∧
    ((1 : Byte) = 0 ∨ (0 : Byte) = 0) := by decide

/-- Too short by one byte, a zero dimension, and a whole record. -/
theorem test_meets_InitRecord : (fresh [0, 1, 1, 8]).busy = false ∧
    (fresh [0, 1, 1, 8]).faulted = false ∧
    (fresh [0, 1, 1, 8]).ahead = 0x00 :: [1, 1, 8] ∧ [(1 : Byte), 1, 8].length < 4 ∧
    (fresh [0, 0, 1, 8, 8]).ahead = 0x00 :: [0, 1, 8, 8] ∧
    (fresh [0, 1, 1, 8, 8]).ahead = 0x00 :: [1, 1, 8, 8] := by decide

theorem test_meets_NopRecord : (fresh [2]).busy = false ∧ (fresh [2]).faulted = false ∧
    (fresh [2]).ahead = 0x02 :: [] := by decide

theorem test_meets_IllegalRecord : (fresh [4]).busy = false ∧ (fresh [4]).faulted = false ∧
    (fresh [4]).ahead = 4 :: [] ∧ 4 ≤ (4 : Byte).toNat ∧
    (fresh [0xFF, 1]).ahead = 0xFF :: [1] ∧ 4 ≤ (0xFF : Byte).toNat := by decide

theorem test_meets_IllegalRaisesUnrecognizedOpcode :
    Instr.illegal04 7 = .illegal04 7 ∨ Instr.illegal04 7 = .illegal08 7 := by decide

/-- No byte, one byte and two bytes left. -/
theorem test_meets_CursorReads : (fresh []).assetLen.toNat ≤ (fresh []).pos.toNat ∧
    (fresh [7]).pos.toNat < (fresh [7]).assetLen.toNat ∧
    (fresh [7]).assetLen.toNat < (fresh [7]).pos.toNat + 2 ∧
    (fresh [0x34, 0x12]).pos.toNat + 2 ≤ (fresh [0x34, 0x12]).assetLen.toNat := by decide

theorem test_meets_LitEmitsOneCopy :
    (inBody 1 0 []).work.out < (inBody 1 0 []).work.bodyLen := by decide

theorem test_meets_RunEmitsAllCopies :
    (inBody 256 0 []).work.out + 1 + (255 : Byte).toNat ≤ (inBody 256 0 []).work.bodyLen := by decide

/-- I6, one byte past the target, and I5, exactly at it. -/
theorem test_meets_RunOverrunFaults :
    let s := inBody 3 0 [7, 7, 3, 0]
    s.work.out < s.work.bodyLen ∧ s.work.bodyLen < s.work.out + 1 + (3 : Byte).toNat ∧
    s.faulted = false ∧ decodeToken s.ahead = .instr (.run 7 3) [0] ∧
    s.work.out + 1 + (2 : Byte).toNat = s.work.bodyLen := by decide

theorem test_meets_TokenOutsideBodyStops :
    (fresh []).work.bodyLen ≤ (fresh []).work.out ∧
    (inBody 3 3 []).work.bodyLen ≤ (inBody 3 3 []).work.out := by decide

theorem test_meets_TokenFetchIsTokenDecode :
    decodeToken (fresh [5, 5, 2]).ahead = .instr (Token.run 5 2).instr [] ∧
    decodeToken (fresh [9]).ahead = .instr (Token.lit 9).instr [] ∧
    decodeToken (fresh []).ahead = .rejected .noByte ∧
    decodeToken (fresh [9, 9]).ahead = .rejected .runCutShort := by decide

/-- A token that fits, and a run that does not. -/
theorem test_meets_InflateRunsDecodedToken :
    (inBody 3 0 [5, 5, 2]).faulted = false ∧
    (inBody 3 0 [5, 5, 2]).work.out < (inBody 3 0 [5, 5, 2]).work.bodyLen ∧
    decodeToken (inBody 3 0 [5, 5, 2]).ahead = .instr (Token.run 5 2).instr [] ∧
    (nextOf (exec (.run 5 2) { inBody 3 0 [5, 5, 2] with pos := 3 })).map State.faulted =
      some false ∧
    decodeToken (inBody 2 0 [5, 5, 2]).ahead = .instr (Token.run 5 2).instr [] ∧
    (nextOf (exec (.run 5 2) { inBody 2 0 [5, 5, 2] with pos := 3 })).map State.faulted =
      some true := by decide

theorem test_meets_InflateRoundTrip :
    tokensAt (fresh [2, 2, 1, 3]) 0 [.run 2 1, .lit 3] = true ∧
    (expandTokens [.run 2 1, .lit 3]).length ≤ (fresh [2, 2, 1, 3]).cfg.scratchBytes := by decide

theorem test_meets_InflateCompletesOnlyOnBodies :
    (fresh [2, 2, 1, 3]).pos.toNat ≤ (fresh [2, 2, 1, 3]).assetLen.toNat ∧
    valueOf (inflate 3 (fresh [2, 2, 1, 3])) = some () := by decide

/-- One byte more than the capacity, for a DELTA and for the FULL of a 9 by 8 frame; and the reference
capacity. -/
theorem test_meets_ScratchOverflowFaults :
    let s := { ready 1 1 9 8 [] with cfg := { fbStride := 85, fbPages := 7, scratchBytes := 8 } }
    s.cfg.scratchBytes < (9 : Half).toNat ∧
    s.cfg.scratchBytes < (s.fw.toNat * s.fh.toNat + 7) / 8 ∧
    65535 ≤ (ready 1 1 9 8 []).cfg.scratchBytes ∧
    (nextOf (exec .nop { ready 1 1 9 8 [] with cause := .scratchOverflow })).map State.cause =
      some .scratchOverflow := by decide

/-- I11, after a token, one byte short of the target. -/
theorem test_meets_BodyCutShortFaults :
    tokensAt (fresh [1, 2]) (fresh [1, 2]).pos.toNat [.lit 1, .lit 2] = true ∧
    (fresh [1, 2]).pos.toNat + (encodeTokens [.lit 1, .lit 2]).length + [].length (α := Byte) =
      (fresh [1, 2]).assetLen.toNat ∧
    (expandTokens [.lit 1, .lit 2]).length < 3 ∧ 3 ≤ (fresh [1, 2]).cfg.scratchBytes := by decide

/-- I8, inside a run, after no token. -/
theorem test_meets_BodyCutShortFaults_run :
    tokensAt (fresh [9, 9]) (fresh [9, 9]).pos.toNat [] = true ∧
    (∀ k b, [(9 : Byte), 9][k]? = some b →
      (fresh [9, 9]).assetByte ((fresh [9, 9]).pos.toNat + (encodeTokens []).length + k) = b) ∧
    (fresh [9, 9]).pos.toNat + (encodeTokens []).length + [(9 : Byte), 9].length =
      (fresh [9, 9]).assetLen.toNat ∧
    (expandTokens []).length < 1 ∧ 1 ≤ (fresh [9, 9]).cfg.scratchBytes := by
  refine ⟨by decide, ?_, by decide, by decide, by decide⟩
  rintro (_ | _ | k) b ⟨⟩ <;> decide

theorem test_meets_InflateFaultLeavesFramebuffer :
    valueOf (inflate 3 (fresh [1, 2])) = none ∧ 3 = (3 : Half).toNat ∧
    valueOf (inflate 3 (ready 1 1 8 3 [1, 2])) = none ∧ 3 = (ready 1 1 8 3 []).fullLen := by decide

/-- The last pixel of the grid; the first column and the first row outside it. -/
theorem test_meets_SetWritesOnePixel :
    84 < (fresh []).cfg.fbStride ∧ 55 < 8 * (fresh []).cfg.fbPages ∧
    ((fresh []).cfg.fbStride ≤ 85 ∨ 8 * (fresh []).cfg.fbPages ≤ 0) ∧
    ((fresh []).cfg.fbStride ≤ 0 ∨ 8 * (fresh []).cfg.fbPages ≤ 56) := by decide

theorem test_meets_InvertTogglesOnePixel :
    0 < (fresh []).cfg.fbStride ∧ 55 < 8 * (fresh []).cfg.fbPages ∧
    ((fresh []).cfg.fbStride ≤ 85 ∨ 8 * (fresh []).cfg.fbPages ≤ 56) := by decide

theorem test_meets_TraversalVisitsEachPixelOnce : (ready 3 3 8 8 []).geomOk = true ∧
    (fresh []).geomOk = true := by decide

theorem test_meets_TraversalOrder :
    1 < (ready 3 3 8 8 []).xb.toNat ∧ 1 < (ready 3 3 8 8 []).yb.toNat ∧
    2 < (ready 3 3 8 8 []).bw.toNat ∧ 2 < (ready 3 3 8 8 []).bh.toNat ∧
    5 < (ready 3 3 8 8 []).xb.toNat * (ready 3 3 8 8 []).bw.toNat ∧
    5 < (ready 3 3 8 8 []).yb.toNat * (ready 3 3 8 8 []).bh.toNat := by decide

theorem test_meets_FullSetsMirroredPixels :
    let s := ready 2 2 4 2 [0x0F]
    s.geomOk = true ∧ tokensAt s s.pos.toNat [.lit 0x0F] = true ∧
    (expandTokens [.lit 0x0F]).length = s.fullLen ∧ s.fullLen ≤ s.cfg.scratchBytes ∧
    s.fw.toNat < s.cfg.fbStride ∧ s.fh.toNat < 8 * s.cfg.fbPages := by decide

/-- The largest frame of the reference storage, 84 by 55, and the geometry before any INIT. -/
theorem test_meets_FullSetsMirroredPixels_ends :
    (ready 84 55 84 55 []).fw.toNat < (fresh []).cfg.fbStride ∧
    (ready 84 55 84 55 []).fh.toNat < 8 * (fresh []).cfg.fbPages ∧
    (fresh []).geomOk = true ∧ (fresh []).visited = [] ∧ (fresh []).fullLen = 0 := by decide

/-- F4: a frame too wide; and one row too high. -/
theorem test_meets_FullOutsideStorageFaults :
    let s := ready 1 1 85 1 [0x00, 0x00, 0x0A]
    let u := ready 1 1 1 56 [0x00, 0x00, 0x06]
    s.geomOk = true ∧ tokensAt s s.pos.toNat [.run 0 10] = true ∧
    (expandTokens [.run 0 10]).length = s.fullLen ∧ s.fullLen ≤ s.cfg.scratchBytes ∧
    s.visited ≠ [] ∧ s.cfg.fbStride ≤ s.fw.toNat ∧
    u.geomOk = true ∧ tokensAt u u.pos.toNat [.run 0 6] = true ∧
    (expandTokens [.run 0 6]).length = u.fullLen ∧ u.fullLen ≤ u.cfg.scratchBytes ∧
    u.visited ≠ [] ∧ 8 * u.cfg.fbPages ≤ u.fh.toNat := by decide

theorem test_meets_FullNeverUnderruns :
    (ready 1 1 90 1 [0, 0, 11]).geomOk = true ∧ (ready 1 1 90 1 [0, 0, 11]).faulted = false ∧
    (nextOf (exec .full (ready 1 1 90 1 [0, 0, 11]))).map State.faulted = some true := by decide

theorem test_meets_FullFrame : (ready 2 2 4 2 [0x0F]).faulted = false ∧
    (nextOf (exec .full (ready 2 2 4 2 [0x0F]))).map State.faulted = some false ∧
    (ready 2 2 4 2 []).faulted = false ∧
    (nextOf (exec .full (ready 2 2 4 2 []))).map State.faulted = some true := by decide

/-- P2's DELTA body `13`. -/
theorem test_meets_DeltaTogglesFlaggedPixels :
    let s := ready 2 2 4 2 [0x13]
    s.geomOk = true ∧ tokensAt s s.pos.toNat [.lit 0x13] = true ∧
    (expandTokens [.lit 0x13]).length = (1 : Half).toNat ∧
    (1 : Half).toNat ≤ s.cfg.scratchBytes ∧
    s.deltaTrace (expandTokens [.lit 0x13]) = ([(0, 0), (1, 1)], true) ∧
    (∀ p ∈ [(0, 0), (1, 1)], s.inGrid (s.mirror p).1 (s.mirror p).2 = true) := by decide

/-- F5's DELTA body `FF`: the bits run out at the flag of block 4. -/
theorem test_meets_DeltaUnderrunFaults :
    let s := ready 1 1 8 1 [0xFF]
    let tg := [(0, 0), (1, 0), (2, 0), (3, 0)]
    tokensAt s s.pos.toNat [.lit 0xFF] = true ∧
    (expandTokens [.lit 0xFF]).length = (1 : Half).toNat ∧
    (1 : Half).toNat ≤ s.cfg.scratchBytes ∧
    s.deltaTrace (expandTokens [.lit 0xFF]) = (tg, false) ∧ s.beforeOutside tg = tg := by decide

/-- A frame one column too wide: the flagged pixel `(0, 0)` mirrors to column 85, with the bits enough
(one block of 85 pixels) and, in blocks of one pixel, running out later. -/
theorem test_meets_DeltaUnderrunFaults_bounds :
    let s := ready 85 1 85 1 [0x03, 0x00, 0x00, 0x09]
    let u := ready 1 1 85 1 [0xFF]
    tokensAt s s.pos.toNat [.lit 3, .run 0 9] = true ∧
    (expandTokens [.lit 3, .run 0 9]).length = (11 : Half).toNat ∧
    (11 : Half).toNat ≤ s.cfg.scratchBytes ∧
    s.deltaTrace (expandTokens [.lit 3, .run 0 9]) = ([(0, 0)], true) ∧
    s.beforeOutside [(0, 0)] = [] ∧
    tokensAt u u.pos.toNat [.lit 0xFF] = true ∧
    (expandTokens [.lit 0xFF]).length = (1 : Half).toNat ∧
    (1 : Half).toNat ≤ u.cfg.scratchBytes ∧
    u.deltaTrace (expandTokens [.lit 0xFF]) = ([(0, 0), (1, 0), (2, 0), (3, 0)], false) ∧
    u.beforeOutside [(0, 0), (1, 0), (2, 0), (3, 0)] = [] := by decide

theorem test_meets_EmptyDeltaUnderruns :
    (ready 2 2 4 2 []).xb ≠ 0 ∧ (ready 2 2 4 2 []).yb ≠ 0 := by decide

theorem test_meets_DeltaFrame : (ready 2 2 4 2 [0x13]).faulted = false ∧
    (nextOf (exec (.delta 1) (ready 2 2 4 2 [0x13]))).map State.faulted = some false ∧
    (nextOf (exec (.delta 0) (ready 2 2 4 2 [0x13]))).map State.faulted = some true := by decide

theorem test_meets_DeltaTwiceRestores : (ready 2 2 4 2 [0x13]).faulted = false ∧
    (nextOf (exec (.delta 1) (ready 2 2 4 2 [0x13]))).map State.faulted = some false := by decide

/-- G10's DELTA before INIT. -/
theorem test_meets_FrameRecordsBeforeInit :
    let s := fresh [0xAA, 0xBB]
    s.geomOk = true ∧ s.geomValid = false ∧
    tokensAt s s.pos.toNat [.lit 0xAA, .lit 0xBB] = true ∧
    (expandTokens [.lit 0xAA, .lit 0xBB]).length = (2 : Half).toNat ∧
    (2 : Half).toNat ≤ s.cfg.scratchBytes ∧
    (nextOf (exec (.delta 2) s)).isSome = true := by decide

theorem test_meets_ScratchIsUnobservable :
    (nextOf (step (ready 2 2 4 2 [0x03, 0x01, 0x00, 0x13]))).isSome = true := by decide

theorem test_meets_RegisterMap : (ready 4 2 84 48 [1]).busy = false := by decide

/-- The first absent register number, and the moves that change nothing. -/
theorem test_meets_PortsAreReadOnly : (fresh [1]).busy = false ∧ 6 ≤ 6 ∧
    hostMove (.writeReg 2 5) (fresh [1]) = .next (fresh [1], .done) := ⟨rfl, by decide, rfl⟩

/-- The last byte of the storage and the first outside it. -/
theorem test_meets_DisplayPort : (fresh []).busy = false ∧
    594 < (fresh []).cfg.fbStride * (fresh []).cfg.fbPages ∧
    (fresh []).cfg.fbStride * (fresh []).cfg.fbPages ≤ 595 := by decide

/-- `FULL LIT 0x0F` before the opcode `03`, and a body that ends the asset. -/
theorem test_meets_AssembledBodyReadsBack :
    asmTokens [.lit 0x0F] (some 3) = .ok [.lit 0x0F] ∧
    (encodeTokens [.lit 0x0F]).length ≤ (fresh [0x0F, 3]).assetLen.toNat ∧
    (∀ k b, (encodeTokens [.lit 0x0F])[k]? = some b → (fresh [0x0F, 3]).assetByte (0 + k) = b) ∧
    (∀ b, some (3 : Byte) = some b →
      (fresh [0x0F, 3]).assetByte (0 + (encodeTokens [.lit 0x0F]).length) = b) ∧
    asmTokens [.lit 0x0F] none = .ok [.lit 0x0F] ∧
    (fresh [0x0F]).assetLen.toNat = 0 + (encodeTokens [.lit 0x0F]).length ∧
    (∀ k b, (encodeTokens [.lit 0x0F])[k]? = some b → (fresh [0x0F]).assetByte (0 + k) = b) := by
  refine ⟨by decide, by decide, ?_, ?_, by decide, by decide, ?_⟩
  · rintro (_ | k) b ⟨⟩
    decide
  · rintro b ⟨⟩
    decide
  · rintro (_ | k) b ⟨⟩
    decide

end Sys2Proof.Tests
end

