-- ==== Sys2Proof/Proofs/State.lean ====
section
/-!
PROOF. The host's view of the state (10_state.md R23, R24): each word of the register map as the
number its fields make, the registers a read selects, and the host moves that change nothing.
-/

namespace Sys2Proof.Machine

/-! What a register read selects. -/

theorem readRegister_of_idle {s : State} (hb : s.busy = false) (d n : Nat) :
    readRegister d n s = s.register n := by
  simp [readRegister, hb]

@[simp] theorem State.register_zero (s : State) : s.register 0 = s.statusWord := rfl
@[simp] theorem State.register_one (s : State) : s.register 1 = s.faultWord := rfl
@[simp] theorem State.register_two (s : State) : s.register 2 = s.pos := rfl
@[simp] theorem State.register_three (s : State) : s.register 3 = s.geomWord := rfl
@[simp] theorem State.register_four (s : State) : s.register 4 = s.blocksWord := rfl
@[simp] theorem State.register_five (s : State) : s.register 5 = s.lastOpWord := rfl

/-- R24: no register stands at a number of 6 or above. -/
theorem State.register_absent (s : State) {n : Nat} (hn : 6 ≤ n) : s.register n = 0 := by
  obtain ⟨k, rfl⟩ := Nat.exists_eq_add_of_le' hn
  simp [State.register]

/-! The words, field by field. -/

/-- A field laid above another is worth its value times the other's span. -/
theorem toNat_append_eq_add {v w : Nat} (x : BitVec v) (y : BitVec w) :
    (x ++ y).toNat = y.toNat + 2 ^ w * x.toNat := by
  rw [BitVec.toNat_append, ← Nat.shiftLeft_add_eq_or_of_lt y.isLt, Nat.shiftLeft_eq]
  ring

theorem State.statusWord_toNat (s : State) :
    s.statusWord.toNat = s.busy.toNat + 2 * s.geomValid.toNat + 4 * s.atEnd.toNat +
      8 * s.faulted.toNat + 16 * s.lastMore.toNat := by
  simp only [State.statusWord, toNat_append_eq_add, BitVec.toNat_ofBool, BitVec.toNat_zero]
  omega

theorem State.statusWord_toNat_lt (s : State) : s.statusWord.toNat < 32 := by
  have := s.statusWord_toNat
  have := s.busy.toNat_le
  have := s.geomValid.toNat_le
  have := s.atEnd.toNat_le
  have := s.faulted.toNat_le
  have := s.lastMore.toNat_le
  omega

/-- Each STATUS field at its bit. -/
theorem State.statusWord_getLsbD (s : State) :
    s.statusWord.getLsbD 0 = s.busy ∧ s.statusWord.getLsbD 1 = s.geomValid ∧
      s.statusWord.getLsbD 2 = s.atEnd ∧ s.statusWord.getLsbD 3 = s.faulted ∧
      s.statusWord.getLsbD 4 = s.lastMore := by
  simp only [State.statusWord, BitVec.getLsbD_append]
  simp

theorem State.faultWord_toNat (s : State) : s.faultWord.toNat = s.cause.code.toNat := by
  simp only [State.faultWord, toNat_append_eq_add]
  simp

theorem State.geomWord_toNat (s : State) :
    s.geomWord.toNat =
      s.bw.toNat + 256 * s.bh.toNat + 65536 * s.fw.toNat + 16777216 * s.fh.toNat := by
  simp only [State.geomWord, toNat_append_eq_add]
  omega

theorem State.blocksWord_toNat (s : State) :
    s.blocksWord.toNat = s.xb.toNat + 256 * s.yb.toNat := by
  simp only [State.blocksWord, toNat_append_eq_add]
  simp

theorem State.lastOpWord_toNat (s : State) :
    s.lastOpWord.toNat = s.lastOp.toNat + 256 * s.lastOpValid.toNat := by
  simp only [State.lastOpWord, toNat_append_eq_add]
  simp

/-- Settles O56: an idle read selects a word of the register map, and each word is the number its
fields make. -/
theorem registerMap : Obligations.RegisterMap := by
  intro s d hb
  simp only [readRegister_of_idle hb, State.register_zero, State.register_one, State.register_two,
    State.register_three, State.register_four, State.register_five]
  obtain ⟨hbusy, hvalid, hend, hfaulted, hmore⟩ := s.statusWord_getLsbD
  refine ⟨⟨hbusy.trans hb, hvalid, hend, hfaulted, hmore, s.statusWord_toNat_lt⟩, ?_, trivial,
    s.geomWord_toNat, s.blocksWord_toNat, s.lastOpWord_toNat⟩
  rw [s.faultWord_toNat]
  cases s.cause <;> rfl

/-! The host's moves. -/

/-- R24: the state after a move that is neither reset nor a STEP request is the state before it. -/
theorem hostMove_state (m : HostMove) {s t : State} {r : Reply}
    (h : hostMove m s = .next (t, r)) :
    m = .rst ∨ (∃ a n, m = .rstWith a n) ∨ m = .stepReq ∨ t = s := by
  cases m with
  | rst => exact .inl rfl
  | rstWith a n => exact .inr (.inl ⟨a, n, rfl⟩)
  | stepReq => exact .inr (.inr (.inl rfl))
  | readReg d n => cases h; exact .inr (.inr (.inr rfl))
  | writeReg n v => cases h; exact .inr (.inr (.inr rfl))
  | readFb d i => cases h; exact .inr (.inr (.inr rfl))

/-- Settles O57: no register stands at 6 or above, and the port moves answer with the state they
were given. -/
theorem portsAreReadOnly : Obligations.PortsAreReadOnly := fun s =>
  ⟨fun d _ hb hn => (readRegister_of_idle hb d _).trans (s.register_absent hn),
    fun m _ _ h => hostMove_state m h⟩

end Sys2Proof.Machine
end

/-!
PROOF. The faults of inflate (41_inflate.md R63, R65): a run past the target, and a target above the
scratch capacity, which is the only ground for SCRATCH_OVERFLOW.
-/

namespace Sys2Proof.Machine

/-! A token read is a token fetched (R60). -/

theorem decodeToken_lit {b : Byte} {rest : List Byte} (h : rest.head? ≠ some b) :
    decodeToken (b :: rest) = .instr (.lit b) rest := by
  cases rest with
  | nil => rfl
  | cons c rest =>
    have hc : c ≠ b := by simpa using h
    simp [decodeToken, hc]

theorem decodeToken_run (b n : Byte) (rest : List Byte) :
    decodeToken (b :: b :: n :: rest) = .instr (.run b n) rest := by
  simp [decodeToken]

theorem decodeToken_pair (b : Byte) : decodeToken [b, b] = .rejected .runCutShort := by
  simp [decodeToken]

theorem Token.instr_injective : Function.Injective Token.instr := by
  rintro (_ | _) (_ | _) h <;> cases h <;> rfl

/-- Where the token decoder reads `t`, the token fetch gives `t` and consumes its bytes. -/
theorem fetchToken_of_decodeToken {s : State} {t : Token} {rest : List Byte}
    (h : decodeToken s.ahead = .instr t.instr rest) :
    fetchToken s = .ok t (s.advance (encode t.instr).length) := by
  obtain ⟨ha, -⟩ | ⟨b, ha, -⟩ | ⟨b, r, ha, hr, hf⟩ | ⟨b, n, r, ha, hf⟩ := fetchToken_cases s
  · simp [ha, decodeToken] at h
  · simp [ha, decodeToken_pair] at h
  · rw [ha, decodeToken_lit hr, Decoded.instr.injEq] at h
    obtain rfl : Token.lit b = t := Token.instr_injective h.1
    exact hf
  · rw [ha, decodeToken_run, Decoded.instr.injEq] at h
    obtain rfl : Token.run b n = t := Token.instr_injective h.1
    exact hf

/-! RUN at a token position (R62, R63). -/

theorem emitToken_run_overrun {b n : Byte} {s : State}
    (h : s.work.bodyLen < s.work.out + 1 + n.toNat) :
    emitToken (.run b n) s = .raised (s.raise .runOverrun) := if_pos h

theorem emitToken_run_fits {b n : Byte} {s : State}
    (h : s.work.out + 1 + n.toNat ≤ s.work.bodyLen) :
    emitToken (.run b n) s = .ok () (s.emit (1 + n.toNat) b) := if_neg (Nat.not_lt.mpr h)

/-- Inside a body a token's meaning is its effect (R60). -/
theorem exec_token_inBody {s : State} (t : Token) (h : s.work.out < s.work.bodyLen) :
    exec t.instr s = .next (emitToken t s).state := by
  have hat : s.atToken = true := decide_eq_true h
  cases t with
  | lit b => exact if_pos hat
  | run b n => exact if_pos hat

/-- A token outside a body has no next state (R47). -/
theorem exec_token_outside {s : State} (t : Token) (h : s.work.bodyLen ≤ s.work.out) :
    exec t.instr s = .fault .noTokenPosition := by
  have hat : ¬ s.atToken = true := by simpa [State.atToken] using h
  cases t with
  | lit b => exact if_neg hat
  | run b n => exact if_neg hat

/-- A round of the loop whose token faults ends the loop in that fault. -/
theorem inflateLoop_raised {k : Nat} {s s' u : State} {t : Token}
    (h : s.work.out < s.work.bodyLen) (hf : fetchToken s = .ok t s')
    (he : emitToken t s' = .raised u) : inflateLoop (k + 1) s = .raised u := by
  simp [inflateLoop, State.atToken, h, hf, he]

/-- Settles O32: both halves follow from the overrun test of RUN, made after the fetch of the three
bytes and before the first copy. -/
theorem runOverrunFaults : Obligations.RunOverrunFaults := by
  intro b n s hbody
  have hexec : exec (.run b n) s = _ := exec_token_inBody (.run b n) hbody
  refine ⟨fun hover => ⟨?_, fun u rest _ hwork htok => ?_⟩, fun hfits => ?_⟩
  · rw [hexec, emitToken_run_overrun hover]
    rfl
  · rw [← hwork] at hbody hover
    exact inflateLoop_raised hbody (fetchToken_of_decodeToken (t := .run b n) htok)
      (emitToken_run_overrun hover)
  · rw [emitToken_run_fits hfits.le] at hexec
    refine ⟨_, hexec, rfl, rfl, ?_⟩
    simp only [Res.state, State.emit_work]
    omega

/-! The scratch capacity (R65). -/

theorem inflate_overflow {target : Nat} {s : State} (h : s.cfg.scratchBytes < target) :
    inflate target s = .raised (s.raise .scratchOverflow) := if_pos h

/-- Once begun, a body faults in the fetch of a token or in a run (R57, R63). -/
theorem inflateLoop_raised_cause {k : Nat} {s t : State} (h : inflateLoop k s = .raised t) :
    t.cause = .readPastEnd ∨ t.cause = .runOverrun := by
  induction k generalizing s with
  | zero => cases h
  | succ k ih =>
    by_cases hb : s.work.out < s.work.bodyLen
    · simp only [inflateLoop, State.atToken, hb, decide_true, if_true] at h
      obtain ⟨n, -, ⟨tok, hf⟩ | hf⟩ := fetchToken_frame s
      · rw [hf, Res.bind_ok] at h
        obtain ⟨-, b, -, he⟩ | ⟨-, he⟩ := emitToken_cases (s := s.advance n) tok hb
        · rw [he, Res.bind_ok] at h
          exact ih h
        · rw [he, Res.bind_raised] at h
          cases h
          exact .inr rfl
      · rw [hf, Res.bind_raised] at h
        cases h
        exact .inl rfl
    · simp [inflateLoop, State.atToken, hb] at h

/-- The fault SCRATCH_OVERFLOW is not new in `t`. -/
def NoNewOverflow (s t : State) : Prop := t.cause = .scratchOverflow → s.cause = .scratchOverflow

theorem NoNewOverflow.of_eq {s t : State} (h : t.cause = s.cause) : NoNewOverflow s t :=
  fun ht => h.symm.trans ht

theorem NoNewOverflow.raise {c : Cause} (s : State) (hc : c ≠ .scratchOverflow) :
    NoNewOverflow s (s.raise c) := fun h => absurd h hc

theorem emitToken_noNewOverflow (t : Token) {s : State} (h : s.work.out < s.work.bodyLen) :
    NoNewOverflow s (emitToken t s).state := by
  obtain ⟨-, b, -, he⟩ | ⟨-, he⟩ := emitToken_cases t h
  · rw [he]; exact .of_eq rfl
  · rw [he]; exact .raise s (by decide)

theorem exec_token_noNewOverflow {tok : Token} {s t : State} (h : exec tok.instr s = .next t) :
    NoNewOverflow s t := by
  rcases Nat.lt_or_ge s.work.out s.work.bodyLen with hb | hb
  · rw [exec_token_inBody tok hb] at h
    cases h
    exact emitToken_noNewOverflow tok hb
  · rw [exec_token_outside tok hb] at h
    cases h

/-- A body within the capacity does not raise SCRATCH_OVERFLOW. -/
theorem inflate_noNewOverflow {target : Nat} {s : State} (h : target ≤ s.cfg.scratchBytes) :
    NoNewOverflow s (inflate target s).state := by
  obtain ⟨t, ht, hk, -⟩ | ⟨t, ht, -⟩ := inflate_spec target s
  · rw [ht]
    exact .of_eq (by rw [Res.state, hk])
  · rw [ht]
    rw [inflate, if_neg (Nat.not_lt.mpr h)] at ht
    intro hc
    obtain hc' | hc' := inflateLoop_raised_cause ht <;> cases hc'.symm.trans hc

theorem WalkSpec.noNewOverflow {S : Nat → Prop} {s : State} {r : Res Unit} (h : WalkSpec S s r) :
    NoNewOverflow s r.state := by
  obtain ⟨t, rfl, hk, -⟩ | ⟨t, rfl, ⟨hc, -⟩, -⟩ := h
  · exact .of_eq (by unfold WalkKeeps at hk; rw [Res.state, hk])
  · intro ht
    obtain hc | hc := hc <;> cases hc.symm.trans ht

/-- A frame record whose body is within the capacity does not raise SCRATCH_OVERFLOW. -/
theorem frameRecord_noNewOverflow {n : Nat} {s t : State} {walk : State → Res Unit}
    (hn : n ≤ s.cfg.scratchBytes) (hw : ∀ u, WalkSpec (fun _ => True) u (walk u))
    (h : ((inflate n s).bind fun _ u => walk u).outcome = .next t) : NoNewOverflow s t := by
  have hi := inflate_noNewOverflow hn
  cases h
  cases hr : inflate n s with
  | ok _ u =>
    rw [hr] at hi
    exact fun ht => hi ((hw u).noNewOverflow ht)
  | raised u =>
    rw [hr] at hi
    exact hi

/-- FULL's target fits 65535 bytes (R65). -/
theorem State.fullLen_le (s : State) : s.fullLen ≤ 65535 := by
  have h : s.fw.toNat * s.fh.toNat ≤ 255 * 255 :=
    Nat.mul_le_mul (Nat.le_of_lt_succ s.fw.isLt) (Nat.le_of_lt_succ s.fh.isLt)
  rw [State.fullLen, ceilDiv]
  omega

/-- With the reference capacity no instruction raises SCRATCH_OVERFLOW (R65). -/
theorem exec_noNewOverflow {i : Instr} {s t : State} (hcap : 65535 ≤ s.cfg.scratchBytes)
    (h : exec i s = .next t) : NoNewOverflow s t := by
  cases i with
  | init bw bh fw fh =>
    cases h
    split_ifs
    · exact .raise s (by decide)
    · exact .of_eq rfl
  | full =>
    exact frameRecord_noNewOverflow (s.fullLen_le.trans hcap)
      (fun u => setPixels_spec _ u fun _ _ => trivial) h
  | nop => cases h; exact .of_eq rfl
  | delta len =>
    exact frameRecord_noNewOverflow ((Nat.le_of_lt_succ len.isLt).trans hcap)
      (fun u => toggleBlocks_spec _ u fun _ _ _ _ => trivial) h
  | illegal04 op | illegal08 op | illegal10 op | illegal20 op | illegal40 op | illegal80 op =>
    cases h
    exact .raise s (by decide)
  | lit b => exact exec_token_noNewOverflow (tok := .lit b) h
  | run b n => exact exec_token_noNewOverflow (tok := .run b n) h

/-- A frame record whose inflate faults is that fault (R88). -/
theorem frameRecord_raised {r : Res Unit} {t : State} (walk : Unit → State → Res Unit)
    (h : r = .raised t) : (r.bind walk).outcome = .next t := by
  rw [h]; rfl

/-- Settles O38: the capacity is tested before the body begins, and no other test raises
SCRATCH_OVERFLOW. -/
theorem scratchOverflowFaults : Obligations.ScratchOverflowFaults := fun _ _ =>
  ⟨fun _ h => inflate_overflow h,
    fun h => frameRecord_raised _ (inflate_overflow h),
    fun h => frameRecord_raised _ (inflate_overflow h),
    fun hcap _ _ h => exec_noNewOverflow hcap h⟩

end Sys2Proof.Machine

/-!
PROOF. The records that touch no pixel, from their bytes (42_geometry_dispatch.md R70 to R72): a
STEP at a whole record and at an INIT cut short, then INIT, NOP and the illegal opcodes.
-/

namespace Sys2Proof.Machine

/-! A STEP through its fetch (R68). -/

theorem State.accept_atEnd_of_ahead {s : State} (ha : s.ahead ≠ []) : s.accept.atEnd = false :=
  decide_eq_false (mt State.ahead_eq_nil.mpr (s.ahead_accept ▸ ha))

theorem step_of_fetch_ok {s t : State} {i : Instr} (hb : s.busy = false) (hf : s.faulted = false)
    (ha : s.ahead ≠ []) (h : fetchRecord s.accept = .ok i t) :
    step s = finishStep (exec i t) := by
  simp [step, beginStep, hb, hf, State.accept_atEnd_of_ahead ha, h]

theorem step_of_fetch_raised {s t : State} (hb : s.busy = false) (hf : s.faulted = false)
    (ha : s.ahead ≠ []) (h : fetchRecord s.accept = .raised t) : step s = .next t := by
  simp [step, beginStep, hb, hf, State.accept_atEnd_of_ahead ha, h]

/-- A STEP at a whole record runs the record's meaning (R68). -/
theorem step_of_decode {s : State} {i : Instr} {rest : List Byte} (hb : s.busy = false)
    (hf : s.faulted = false) (hd : decode s.ahead = .instr i rest) :
    step s = finishStep (exec i (s.atRecord i)) := by
  obtain ⟨-, -, -, hfetch⟩ := fetchRecord_instr (s := s.accept) (s.ahead_accept ▸ hd)
  refine step_of_fetch_ok hb hf (fun ha => ?_) hfetch
  simp [ha, decode] at hd

/-- A record runs busy, with its opcode noted and its fixed part consumed (R68). -/
theorem State.atRecord_eq (i : Instr) (s : State) :
    s.atRecord i = { s with
      busy := true, lastOp := (encode i).headD 0, lastOpValid := true,
      pos := s.pos + BitVec.ofNat 32 (encode i).length } := rfl

/-- A record that completes ends the STEP in MORE (R68). -/
theorem step_of_record_done {s t : State} {i : Instr} {rest : List Byte} (hb : s.busy = false)
    (hf : s.faulted = false) (hd : decode s.ahead = .instr i rest)
    (hexec : exec i (s.atRecord i) = .next t) (ht : t.faulted = false) :
    step s = .next t.returnMore := by
  simp [step_of_decode hb hf hd, hexec, finishStep, ht]

/-- A record that raises a fault ends the STEP there (R92). -/
theorem step_of_record_raise {s t : State} {i : Instr} {c : Cause} {rest : List Byte}
    (hb : s.busy = false) (hf : s.faulted = false) (hd : decode s.ahead = .instr i rest)
    (hexec : exec i (s.atRecord i) = .next (t.raise c)) : step s = .next (t.raise c) := by
  simp [step_of_decode hb hf hd, hexec, finishStep]

/-- A STEP at an INIT cut short reads what there is of it and faults (R57, R70). -/
theorem step_of_initCutShort {s : State} (hb : s.busy = false) (hf : s.faulted = false)
    (hd : decode s.ahead = .rejected .initCutShort) :
    step s = .next (((s.accept.noteOpcode 0x00).advance s.ahead.length).raise .readPastEnd) := by
  obtain ⟨h, -⟩ | ⟨-, -, -, hfetch⟩ | ⟨h, -⟩ :=
    fetchRecord_rejected (s := s.accept) (s.ahead_accept ▸ hd)
  · cases h
  · rw [s.ahead_accept] at hfetch
    refine step_of_fetch_raised hb hf (fun ha => ?_) hfetch
    simp [ha, decode] at hd
  · cases h

/-- The cursor moved over all the bytes ahead stands at the end of the asset (R12). -/
theorem State.pos_add_length_ahead {s : State} (h : s.pos.toNat ≤ s.assetLen.toNat) :
    s.pos + BitVec.ofNat 32 s.ahead.length = s.assetLen := by
  apply BitVec.eq_of_toNat_eq
  have hadv := State.toNat_advance (s := s) (n := s.ahead.length) (by rw [s.length_ahead]; omega)
  rw [s.length_ahead] at hadv ⊢
  simp only [State.advance_pos] at hadv
  omega

/-! INIT (R70). -/

theorem decode_init (a b c d : Byte) (rest : List Byte) :
    decode (0x00 :: a :: b :: c :: d :: rest) = .instr (.init a b c d) rest := rfl

theorem decode_init_short {body : List Byte} (h : body.length < 4) :
    decode (0x00 :: body) = .rejected .initCutShort := by
  match body, h with
  | [], _ => rfl
  | [_], _ => rfl
  | [_, _], _ => rfl
  | [_, _, _], _ => rfl
  | _ :: _ :: _ :: _ :: _, h => simp only [List.length_cons] at h; omega

theorem exec_init_zero {a b : Byte} (h : a = 0 ∨ b = 0) (c d : Byte) (s : State) :
    exec (.init a b c d) s = .next (s.raise .zeroBlockDim) :=
  congrArg _ (if_pos h)

theorem exec_init_ready {a b : Byte} (ha : a ≠ 0) (hb : b ≠ 0) (c d : Byte) (s : State) :
    exec (.init a b c d) s = .next (s.setGeometry a b c d) :=
  congrArg _ (if_neg (not_or.mpr ⟨ha, hb⟩))

/-- Settles O25: an INIT cut short faults in its fetch; a whole one runs the meaning of INIT, which
tests the block dimensions first. -/
theorem initRecord : Obligations.InitRecord := by
  intro s body hb hf ha
  obtain ⟨hlt, -⟩ := State.ahead_eq_cons ha
  refine ⟨fun hshort => ?_, ?_⟩
  · have hend := State.pos_add_length_ahead hlt.le
    rw [step_of_initCutShort hb hf (by rw [ha, decode_init_short hshort])]
    simp [State.raise, State.advance, State.noteOpcode, State.accept, hend, hb]
  · rintro a b c d r rfl
    have hd : decode s.ahead = .instr (.init a b c d) r := ha ▸ decode_init a b c d r
    refine ⟨fun hzero => ?_, fun hane hbne => ?_⟩
    · rw [step_of_record_raise hb hf hd (exec_init_zero hzero c d _)]
      simp [State.raise, State.atRecord_eq, encode, hb]
    · rw [step_of_record_done hb hf hd (exec_init_ready hane hbne c d _) hf]
      simp [State.returnMore, State.setGeometry, State.atRecord_eq, encode, BitVec.udiv_def, hb]

/-! Records of one byte (R71, R72). -/

theorem decode_nop (rest : List Byte) : decode (0x02 :: rest) = .instr .nop rest := rfl

theorem exec_nop (s : State) : exec .nop s = .next s := rfl

/-- Settles O26: NOP's meaning is the identity, so the STEP is its fetch and MORE. -/
theorem nopRecord : Obligations.NopRecord := by
  refine fun s => ⟨exec_nop s, fun body hb hf ha => ⟨_, ?_, ?_, ?_, rfl⟩⟩
  · rw [step_of_record_done hb hf (ha ▸ decode_nop body) (exec_nop _) hf]
    simp [State.returnMore, State.atRecord_eq, encode, hb]
  · simp [State.result, hf]
  · simp [State.renderPoint, State.result, hf]

/-- A byte of 4 or above is a whole record, whose meaning is to raise UNRECOGNIZED_OPCODE (R51,
R72). -/
theorem decode_illegal {op : Byte} (h : 4 ≤ op.toNat) (rest : List Byte) :
    ∃ i, decode (op :: rest) = .instr i rest ∧ encode i = [op] ∧
      ∀ s, exec i s = .next (s.raise .unrecognizedOpcode) := by
  obtain ⟨-, rfl⟩ | ⟨-, rfl⟩ | ⟨i, hd, -, hrec, henc⟩ := decodeHead_spec op
  · exact absurd h (by decide)
  · exact absurd h (by decide)
  · refine ⟨i, by simp [decode, hd], henc, ?_⟩
    cases i with
    | init | delta => simp [encode] at henc
    | full | nop =>
      cases henc
      exact absurd h (by decide)
    | illegal04 | illegal08 | illegal10 | illegal20 | illegal40 | illegal80 => exact fun _ => rfl
    | lit | run => cases hrec

/-- Settles O27: the opcode byte is the whole record, and its meaning raises the fault. -/
theorem illegalRecord : Obligations.IllegalRecord := by
  intro s op body hb hf ha hop
  obtain ⟨i, hd, henc, hexec⟩ := decode_illegal hop body
  refine ⟨_, ?_, ?_, rfl⟩
  · rw [step_of_record_raise hb hf (ha ▸ hd) (hexec _)]
    simp [State.raise, State.atRecord_eq, henc, hb]
  · simp [State.result]

end Sys2Proof.Machine

/-!
PROOF. The frame records before any INIT (42_geometry_dispatch.md R73): with the geometry registers
0 no block is visited, so FULL does nothing and DELTA is the inflate of its body.
-/

namespace Sys2Proof.Machine

/-! Tokens at the cursor (R47). -/

theorem tokensAt_congr {s s' : State} (ha : s'.asset = s.asset) (hl : s'.assetLen = s.assetLen)
    (a : Nat) (toks : List Token) : tokensAt s' a toks = tokensAt s a toks := by
  induction toks generalizing a with
  | nil => rfl
  | cons t ts ih => cases t <;> simp [tokensAt, State.assetByte, ha, hl, ih]

theorem State.ahead_advance {s : State} {n : Nat} (h : s.pos.toNat + n < s.assetLen.toNat) :
    (s.advance n).ahead = s.assetByte (s.pos.toNat + n) :: (s.advance (n + 1)).ahead := by
  have hpos := State.toNat_advance h.le
  have hend : (s.advance n).atEnd = false := by
    rw [State.atEnd, hpos]
    exact decide_eq_false (Nat.not_le.mpr h)
  rw [State.ahead_eq, hend, hpos, State.advance_advance]
  rfl

theorem State.ahead_advance_eq_nil {s : State} {n : Nat} (hn : s.pos.toNat + n ≤ s.assetLen.toNat)
    (h : s.assetLen.toNat ≤ s.pos.toNat + n) : (s.advance n).ahead = [] :=
  State.ahead_eq_nil.mpr (by rwa [State.toNat_advance hn])

/-- Where tokens stand at the cursor, the decoder reads the first, it lies within the asset, and the
others stand after it. -/
theorem decodeToken_of_tokensAt {s : State} {t : Token} {ts : List Token}
    (h : tokensAt s s.pos.toNat (t :: ts) = true) :
    (∃ rest, decodeToken s.ahead = .instr t.instr rest) ∧
      s.pos.toNat + (encode t.instr).length ≤ s.assetLen.toNat ∧
      tokensAt s (s.pos.toNat + (encode t.instr).length) ts = true := by
  cases t with
  | lit b =>
    simp only [tokensAt, Bool.and_eq_true, Bool.or_eq_true, decide_eq_true_eq, beq_iff_eq,
      bne_iff_ne] at h
    obtain ⟨⟨⟨hlt, hbyte⟩, hnext⟩, hts⟩ := h
    refine ⟨⟨(s.advance 1).ahead, ?_⟩, hlt, hts⟩
    have ha := State.ahead_advance (s := s) (n := 0) hlt
    rw [State.advance_zero, Nat.add_zero, hbyte] at ha
    rw [ha]
    refine decodeToken_lit ?_
    rcases Nat.lt_or_ge (s.pos.toNat + 1) s.assetLen.toNat with h1 | h1
    · rw [State.ahead_advance h1]
      simpa using hnext.resolve_left (Nat.not_le.mpr h1)
    · simp [State.ahead_advance_eq_nil hlt h1]
  | run b n =>
    simp only [tokensAt, Bool.and_eq_true, decide_eq_true_eq, beq_iff_eq] at h
    obtain ⟨⟨⟨⟨hlt, hb₀⟩, hb₁⟩, hn⟩, hts⟩ := h
    refine ⟨⟨(s.advance 3).ahead, ?_⟩, hlt, hts⟩
    have ha := State.ahead_advance (s := s) (n := 0) (by omega)
    rw [State.ahead_advance (n := 0 + 1) (by omega), State.ahead_advance hlt, State.advance_zero,
      Nat.add_zero, hb₀, hb₁, hn] at ha
    rw [ha]
    exact decodeToken_run b n _

/-! Inflate over a body (R60). -/

/-- The byte a token writes (R47). -/
def Token.byte : Token → Byte
  | .lit b => b
  | .run b _ => b

/-- A token consumed at the cursor and written to the scratch buffer (R60). -/
def State.takeToken (s : State) (t : Token) : State :=
  (s.advance (encode t.instr).length).emit t.expand.length (Token.byte t)

theorem tokensAt_takeToken (s : State) (t : Token) (a : Nat) (toks : List Token) :
    tokensAt (s.takeToken t) a toks = tokensAt s a toks :=
  tokensAt_congr (s := s) (s' := s.takeToken t) rfl rfl a toks

theorem tokensAt_startBody (n : Nat) (s : State) (a : Nat) (toks : List Token) :
    tokensAt (s.startBody n) a toks = tokensAt s a toks :=
  tokensAt_congr (s := s) (s' := s.startBody n) rfl rfl a toks

theorem emitToken_fits (t : Token) {s : State}
    (h : s.work.out + t.expand.length ≤ s.work.bodyLen) :
    emitToken t s = .ok () (s.emit t.expand.length (Token.byte t)) := by
  cases t with
  | lit b => rfl
  | run b n =>
    simp only [Token.expand, List.length_replicate] at h ⊢
    exact emitToken_run_fits ((Nat.add_assoc _ _ _).trans_le h)

/-- A round of the loop at a decoded token whose expansion stays within the target takes that
token. -/
theorem inflateLoop_takeToken {k : Nat} {s : State} {t : Token} {rest : List Byte}
    (hd : decodeToken s.ahead = .instr t.instr rest)
    (hfits : s.work.out + t.expand.length ≤ s.work.bodyLen) :
    inflateLoop (k + 1) s = inflateLoop k (s.takeToken t) := by
  have hout : s.work.out < s.work.bodyLen := by have := Token.expand_pos t; omega
  have he := emitToken_fits t (s := s.advance (encode t.instr).length) hfits
  simp [inflateLoop, State.atToken, hout, fetchToken_of_decodeToken hd, he, State.takeToken]

/-- The loop over a body that meets its target takes the tokens one after another (R60). -/
theorem inflateLoop_tokens {k : Nat} {s : State} {toks : List Token}
    (h : tokensAt s s.pos.toNat toks = true)
    (hlen : s.work.out + (expandTokens toks).length = s.work.bodyLen)
    (hk : (expandTokens toks).length ≤ k) :
    inflateLoop k s = .ok () (toks.foldl State.takeToken s) := by
  induction toks generalizing k s with
  | nil =>
    have hdone : s.atToken = false := decide_eq_false (by simpa [expandTokens] using hlen.ge)
    cases k <;> simp [inflateLoop, hdone]
  | cons t ts ih =>
    simp only [expandTokens, List.length_append] at hlen hk
    obtain ⟨⟨rest, hd⟩, hle, hts⟩ := decodeToken_of_tokensAt h
    have hpos := Token.expand_pos t
    obtain ⟨k, rfl⟩ : ∃ k', k = k' + 1 := ⟨k - 1, by omega⟩
    rw [inflateLoop_takeToken hd (by omega), List.foldl_cons]
    refine ih ?_ ?_ (by omega)
    · rw [← State.toNat_advance hle] at hts
      rwa [tokensAt_takeToken]
    · simp only [State.takeToken, State.emit_work, State.advance_work]
      omega

/-- Tokens taken move the cursor over their bytes, count their expansion, and write the scratch
buffer. -/
theorem foldl_takeToken (toks : List Token) (s : State) :
    toks.foldl State.takeToken s = { s with
      pos := s.pos + BitVec.ofNat 32 (encodeTokens toks).length
      scratch := (toks.foldl State.takeToken s).scratch
      work := { s.work with out := s.work.out + (expandTokens toks).length } } := by
  induction toks generalizing s with
  | nil => simp [encodeTokens, expandTokens]
  | cons t ts ih =>
    rw [List.foldl_cons, ih]
    simp [State.takeToken, State.emit, State.advance, encodeTokens, expandTokens, BitVec.ofNat_add,
      BitVec.add_assoc, Nat.add_assoc]

/-- Inflate to the length its tokens expand to completes (R60). -/
theorem inflate_tokens {s : State} {toks : List Token} {target : Nat}
    (h : tokensAt s s.pos.toNat toks = true) (hlen : (expandTokens toks).length = target)
    (hcap : target ≤ s.cfg.scratchBytes) :
    inflate target s = .ok () (toks.foldl State.takeToken (s.startBody target)) := by
  rw [inflate, if_neg (Nat.not_lt.mpr hcap)]
  refine inflateLoop_tokens (s := s.startBody target) ?_ ?_ hlen.le
  · rwa [tokensAt_startBody]
  · simpa using hlen

theorem inflate_zero (s : State) : inflate 0 s = .ok () (s.startBody 0) := rfl

/-! No geometry (R73). -/

/-- Before any INIT the frame dimensions and the block counts are 0 (R14, R15, R16). -/
theorem State.geomOk_uninit {s : State} (hg : s.geomOk = true) (hv : s.geomValid = false) :
    s.fw = 0 ∧ s.fh = 0 ∧ s.xb = 0 ∧ s.yb = 0 := by
  simp only [State.geomOk, hv, Bool.false_eq_true, if_false, Bool.and_eq_true, beq_iff_eq] at hg
  obtain ⟨⟨⟨⟨-, hfw⟩, hfh⟩, hxb⟩, hyb⟩ := hg
  exact ⟨hfw, hfh, hxb, hyb⟩

theorem State.fullLen_of_fw_zero {s : State} (h : s.fw = 0) : s.fullLen = 0 := by
  simp [State.fullLen, ceilDiv, h]

theorem State.blocks_of_yb_zero {s : State} (h : s.yb = 0) : s.blocks = [] := by
  simp [State.blocks, h]

theorem State.visited_of_no_block {s : State} (h : s.blocks = []) : s.visited = [] := by
  simp [State.visited, h]

/-- FULL with target 0 and no block begins a body of no bytes, and that is all (R73). -/
theorem exec_full_no_block {s : State} (hlen : s.fullLen = 0) (hblocks : s.blocks = []) :
    exec .full s = .next (s.startBody 0) := by
  have hvisited : (s.startBody 0).visited = [] := State.visited_of_no_block hblocks
  simp [exec, execFull, hlen, inflate_zero, hvisited, setPixels, Res.outcome, Res.state]

/-- DELTA with no block is the inflate of its body (R73). -/
theorem exec_delta_no_block {s : State} (hblocks : s.blocks = []) (len : Half) :
    exec (.delta len) s = (inflate len.toNat s).outcome := by
  obtain ⟨t, ht, hk, -⟩ | ⟨t, ht, -⟩ := inflate_spec len.toNat s
  · have hb : t.blocks = [] := by rw [hk]; exact hblocks
    simp [exec, execDelta, ht, hb, toggleBlocks]
  · simp [exec, execDelta, ht, Res.outcome, Res.state]

/-- Inflate writes neither the framebuffer nor the decoder state (R60, R88). -/
theorem inflate_keeps_fb_geomValid (n : Nat) (s : State) :
    (inflate n s).state.fb = s.fb ∧ (inflate n s).state.geomValid = s.geomValid := by
  obtain ⟨t, ht, hk, -⟩ | ⟨t, ht, ⟨-, hk⟩, -⟩ := inflate_spec n s <;>
    rw [ht, Res.state, hk] <;> exact ⟨rfl, rfl⟩

/-- Settles O54: the geometry registers are 0, so no block is visited; FULL's target is 0 and DELTA
is the inflate of its body. -/
theorem frameRecordsBeforeInit : Obligations.FrameRecordsBeforeInit := by
  intro s hg hv
  obtain ⟨hfw, -, -, hyb⟩ := State.geomOk_uninit hg hv
  have hlen := State.fullLen_of_fw_zero hfw
  have hblocks := State.blocks_of_yb_zero hyb
  have hdelta := exec_delta_no_block hblocks
  refine ⟨hlen, State.visited_of_no_block hblocks, exec_nop s,
    ⟨_, exec_full_no_block hlen hblocks, rfl⟩, fun len toks htoks hexp hcap => ?_,
    fun len u hu => ?_, fun len t ht => ?_⟩
  · refine ⟨toks.foldl State.takeToken (s.startBody len.toNat), ?_, ?_⟩
    · rw [hdelta, inflate_tokens htoks hexp hcap]
      rfl
    · rw [foldl_takeToken]
      simp [State.startBody, hexp]
  · rw [hdelta, hu]
    rfl
  · rw [hdelta] at ht
    cases ht
    rw [← hv]
    exact inflate_keeps_fb_geomValid len.toNat s

end Sys2Proof.Machine

/-!
PROOF. The framebuffer's pixel operations and its display port (43_framebuffer.md R78, R79, R81).
-/

namespace Sys2Proof.Machine

/-! Inside the pixel grid and outside it (R33). -/

theorem State.inGrid_iff {s : State} {x y : Nat} :
    s.inGrid x y = true ↔ x < s.cfg.fbStride ∧ y < 8 * s.cfg.fbPages := by
  simp [State.inGrid]

theorem State.not_inGrid_iff {s : State} {x y : Nat} :
    ¬ s.inGrid x y = true ↔ s.cfg.fbStride ≤ x ∨ 8 * s.cfg.fbPages ≤ y := by
  rw [State.inGrid_iff, not_and_or, Nat.not_lt, Nat.not_lt]

theorem fbGet_of_inGrid {s : State} {x y : Nat} (h : s.inGrid x y = true) :
    fbGet x y s = .ok (s.pixel x y) s := if_pos h

theorem fbGet_of_not_inGrid {s : State} {x y : Nat} (h : ¬ s.inGrid x y = true) :
    fbGet x y s = .raised (s.raise .fbBounds) := if_neg h

theorem fbSet_of_inGrid {s : State} {x y : Nat} (v : Bool) (h : s.inGrid x y = true) :
    fbSet x y v s = .ok () (s.putPixel x y v) := (fbSet_eq x y v s).trans (if_pos h)

theorem fbSet_of_not_inGrid {s : State} {x y : Nat} (v : Bool) (h : ¬ s.inGrid x y = true) :
    fbSet x y v s = .raised (s.raise .fbBounds) := (fbSet_eq x y v s).trans (if_neg h)

/-- Settles O41: in the grid, fb_set puts one bit, and a byte index inside the page width names one
column and one page; outside the grid both operations fault before they touch the framebuffer. -/
theorem setWritesOnePixel : Obligations.SetWritesOnePixel := by
  refine fun s x y v => ⟨fun hx hy => ?_, fun hout => ?_⟩
  · have hin : s.inGrid x y = true := State.inGrid_iff.mpr ⟨hx, hy⟩
    refine ⟨fbGet_of_inGrid hin, s.putPixel x y v, fbSet_of_inGrid v hin, rfl, ?_,
      fun x' y' hx' hne => ?_, fun a ha => State.read_putPixel_ne v ha⟩
    · rw [State.pixel_putPixel v hx hx, if_pos ⟨rfl, rfl⟩]
    · rw [State.pixel_putPixel v hx hx', if_neg (not_and_or.mpr hne)]
  · have hin := State.not_inGrid_iff.mpr hout
    exact ⟨fbSet_of_not_inGrid v hin, fbGet_of_not_inGrid hin⟩

/-! The display port (R81). -/

theorem readDisplay_of_idle {s : State} (hb : s.busy = false) (d i : Nat) :
    readDisplay d i s = if i < s.cfg.fbBytes then s.fb.read i else 0x00 := by
  simp [readDisplay, hb]

theorem length_renderBytes (d : Nat) (s : State) : (renderBytes d s).length = s.cfg.fbBytes := by
  simp [renderBytes]

/-- A render reads the port once per byte, in index order. -/
theorem getElem?_renderBytes {s : State} {i : Nat} (d : Nat) (h : i < s.cfg.fbBytes) :
    (renderBytes d s)[i]? = some (readDisplay (d + i) i s) := by
  simp [renderBytes, h]

/-- Settles O58: an idle port reads the storage and 0x00 outside it, whatever the draw, and byte `i`
of a render is the port's read at `i`. -/
theorem displayPort : Obligations.DisplayPort := by
  intro s d hb
  have hin : ∀ d i, i < s.cfg.fbBytes → readDisplay d i s = s.fb.read i := fun d i h =>
    (readDisplay_of_idle hb d i).trans (if_pos h)
  have hout : ∀ i, s.cfg.fbBytes ≤ i → readDisplay d i s = 0x00 := fun i h =>
    (readDisplay_of_idle hb d i).trans (if_neg (Nat.not_lt.mpr h))
  refine ⟨hin d, hout, length_renderBytes d s, fun i hi => ?_, fun i => rfl⟩
  rw [getElem?_renderBytes d hi, hin (d + i) i hi]

end Sys2Proof.Machine

/-!
PROOF. The fault state and the STEP result (60_exceptions.md R95, R107): what a STEP that answers
leaves, read off its result, and the host moves in the fault state.
-/

namespace Sys2Proof.Machine

/-! The result of a state (R68, R18). -/

theorem State.result_of_faulted {s : State} (hf : s.faulted = true) : s.result = .fault := if_pos hf

theorem State.result_of_not_faulted {s : State} (hf : s.faulted = false) :
    s.result = if s.lastMore then .more else .ended := by
  simp [State.result, hf]

/-! The ends of a STEP (R68, R107). -/

/-- R95: in the fault state a STEP changes nothing. -/
theorem step_of_faulted {s : State} (hb : s.busy = false) (hf : s.faulted = true) :
    step s = .next s := by
  simp [step, beginStep, hb, hf]

/-- The end test answers an idle state with `last_more` cleared (R68). -/
theorem State.accept_endOfStream {s : State} (hb : s.busy = false) :
    s.accept.endOfStream = { s with lastMore := false } := by
  simp [State.accept, State.endOfStream, hb]

/-- No instruction is empty: its bytes begin with its first byte. -/
theorem encode_eq_cons (i : Instr) : ∃ r, encode i = (encode i).headD 0 :: r := by
  cases i <;> exact ⟨_, rfl⟩

/-- Where a record stands, the cursor is inside the asset at its opcode byte. -/
theorem State.assetByte_of_ahead_encode {s : State} {i : Instr} {rest : List Byte}
    (ha : s.ahead = encode i ++ rest) :
    s.pos.toNat < s.assetLen.toNat ∧ s.assetByte s.pos.toNat = (encode i).headD 0 := by
  obtain ⟨r, hr⟩ := encode_eq_cons i
  rw [hr, List.cons_append] at ha
  obtain ⟨hlt, hop, -⟩ := State.ahead_eq_cons ha
  exact ⟨hlt, hop⟩

theorem CutShort.faulted {s t : State} (h : CutShort s t) : t.faulted = true := by
  obtain ⟨rfl, -⟩ | ⟨rfl, -⟩ := h <;> rfl

theorem RecordFaulted.faulted {s t : State} (h : RecordFaulted s t) : t.faulted = true := by
  obtain ⟨-, ht⟩ := h
  rw [ht]

/-- A record that completed keeps the fault flag and the opcode noted for it (R68). -/
theorem RecordDone.bookkeeping {s t : State} (h : RecordDone s t) :
    t.faulted = s.faulted ∧ t.lastOpValid = s.lastOpValid ∧ t.lastOp = s.lastOp := by
  unfold RecordDone at h
  rw [h]
  exact ⟨rfl, rfl, rfl⟩

/-- A STEP that answers ended in the fault state, or met the end of the asset before an opcode, or
read an opcode byte and completed its record (R68). -/
theorem step_next_cases {s t : State} (h : step s = .next t) :
    t.faulted = true ∨
    (s.faulted = false ∧ s.assetLen.toNat ≤ s.pos.toNat ∧ t = { s with lastMore := false }) ∨
    (s.faulted = false ∧ s.pos.toNat < s.assetLen.toNat ∧ t.faulted = false ∧ t.lastMore = true ∧
      t.lastOpValid = true ∧ t.lastOp = s.assetByte s.pos.toNat) := by
  obtain ⟨-, hs⟩ | ⟨-, hf, hs⟩ | ⟨hb, hf, hnil, hs⟩ | ⟨-, -, u, hs, hcut⟩ |
    ⟨-, hf, i, rest, -, -, -, ha, u, -, hdone | hfault, -, hs⟩ := step_cases s
  all_goals rw [hs] at h; cases h
  · exact .inl hf
  · exact .inr (.inl ⟨hf, State.ahead_eq_nil.mp hnil, State.accept_endOfStream hb⟩)
  · exact .inl hcut.faulted
  · obtain ⟨hlt, hop⟩ := State.assetByte_of_ahead_encode ha
    obtain ⟨hfault, hvalid, hlast⟩ := hdone.bookkeeping
    have hu : u.faulted = false := hfault.trans hf
    rw [if_neg (Bool.eq_false_iff.mp hu)]
    exact .inr (.inr ⟨hf, hlt, hu, rfl, hvalid, hlast.trans hop.symm⟩)
  · rw [if_pos hfault.faulted]
    exact .inl hfault.faulted

/-- Settles O13: the three ends of a STEP leave the three results, so each result names its end. -/
theorem faultsAreNotEndOfStream : Obligations.FaultsAreNotEndOfStream := by
  refine fun s t _ h => ⟨State.result_of_faulted, ?_⟩
  obtain hf | ⟨hf, hend, ht⟩ | ⟨hf, hlt, htf, hmore, hvalid, hop⟩ := step_next_cases h
  · rw [State.result_of_faulted hf]
    exact ⟨nofun, nofun⟩
  · have hr : t.result = .ended := ht ▸ State.result_of_not_faulted hf
    rw [hr]
    exact ⟨fun _ => ⟨hf, hend, ht⟩, nofun⟩
  · rw [State.result_of_not_faulted htf, if_pos hmore]
    exact ⟨nofun, fun _ => ⟨hf, hlt, hmore, hvalid, hop⟩⟩

/-! The fault state as the host sees it (R95). -/

/-- An accepted STEP request delivers the result of the state it leaves (R103). -/
theorem hostMove_stepReq {s t : State} (h : step s = .next t) :
    hostMove .stepReq s = .next (t, .result t.result) := by
  simp [hostMove, h]

/-- Settles O10: the STEP request answers the state it was given, and so does every port move. -/
theorem faultStateIsSticky : Obligations.FaultStateIsSticky := by
  intro s hb hf
  have hstep : step s = .next s := step_of_faulted hb hf
  have hresult : s.result = .fault := State.result_of_faulted hf
  refine ⟨hstep, hresult, hf, readRegister_of_idle hb, readDisplay_of_idle hb, fun m t r h => ?_⟩
  have hreq : m = .stepReq → t = s ∧ r = .result .fault := by
    rintro rfl
    rw [hostMove_stepReq hstep, hresult] at h
    cases h
    exact ⟨rfl, rfl⟩
  obtain hm | hm | hm | ht := hostMove_state m h
  · exact .inl (.inl hm)
  · exact .inl (.inr hm)
  · exact .inr ⟨(hreq hm).1, fun _ => (hreq hm).2⟩
  · exact .inr ⟨ht, fun hm => (hreq hm).2⟩

end Sys2Proof.Machine

/-!
PROOF. Decoding and encoding are inverse (30_encoding.md R41 to R51): records, the opcode map and
tokens.
-/

namespace Sys2Proof.Machine

/-! Records (R42 to R46, R51). -/

/-- The six rows of illegal opcodes, as functions of the opcode byte (R51). -/
def illegalRows : List (Byte → Instr) :=
  [.illegal04, .illegal08, .illegal10, .illegal20, .illegal40, .illegal80]

/-- An opcode byte in an illegal row selects that row. Checked over the 256 opcode bytes. -/
theorem decodeHead_illegalRows_all : ∀ n : Fin 256, ∀ row ∈ illegalRows,
    (row (BitVec.ofFin n)).wellFormed = true →
      decodeHead (BitVec.ofFin n) = .whole (row (BitVec.ofFin n)) := by decide +kernel

theorem decode_illegalRow {row : Byte → Instr} {op : Byte} (hrow : row ∈ illegalRows)
    (hw : (row op).wellFormed = true) (rest : List Byte) :
    decode (op :: rest) = .instr (row op) rest := by
  have hd : decodeHead op = .whole (row op) := decodeHead_illegalRows_all op.toFin row hrow hw
  simp [decode, hd]

theorem u16le_lowByte_highByte (len : Half) : u16le (lowByte len) (highByte len) = len := by
  apply BitVec.eq_of_toNat_eq
  have := len.isLt
  rw [toNat_u16le]
  simp [lowByte, highByte, BitVec.extractLsb'_toNat, Nat.shiftRight_eq_div_pow]
  omega

theorem decode_delta (lo hi : Byte) (rest : List Byte) :
    decode (0x03 :: lo :: hi :: rest) = .instr (.delta (u16le lo hi)) rest := rfl

/-- Settles O1, by cases on the record: the fixed rows read their own operands back, and an illegal
byte selects its own row. -/
theorem decodeOfEncodedRecord : Obligations.DecodeOfEncodedRecord := by
  intro i rest hw hrec
  cases i with
  | init bw bh fw fh => exact decode_init bw bh fw fh rest
  | full => rfl
  | nop => rfl
  | delta len =>
    exact (decode_delta _ _ rest).trans (by rw [u16le_lowByte_highByte])
  | illegal04 op | illegal08 op | illegal10 op | illegal20 op | illegal40 op | illegal80 op =>
    exact decode_illegalRow (by simp [illegalRows]) hw rest
  | lit b | run b n => cases hrec

theorem decodeInit_eq_instr {bytes rest : List Byte} {i : Instr}
    (h : decodeInit bytes = .instr i rest) :
    ∃ bw bh fw fh, i = .init bw bh fw fh ∧ bytes = bw :: bh :: fw :: fh :: rest := by
  unfold decodeInit at h
  split at h
  · cases h
    exact ⟨_, _, _, _, rfl, rfl⟩
  · cases h

theorem decodeDelta_eq_instr {bytes rest : List Byte} {i : Instr}
    (h : decodeDelta bytes = .instr i rest) :
    ∃ lo hi, i = .delta (u16le lo hi) ∧ bytes = lo :: hi :: rest := by
  unfold decodeDelta at h
  split at h
  · cases h
    exact ⟨_, _, rfl, rfl⟩
  · cases h

/-- Settles O2, along what the opcode byte tells: INIT's operands, DELTA's length, or a whole
record. -/
theorem decodedRecordIsItsEncoding : Obligations.DecodedRecordIsItsEncoding := by
  intro bytes rest i h
  cases bytes with
  | nil => cases h
  | cons op body =>
    obtain ⟨hd, rfl⟩ | ⟨hd, rfl⟩ | ⟨j, hd, hw, hrec, henc⟩ := decodeHead_spec op <;>
      simp only [decode, hd] at h
    · obtain ⟨bw, bh, fw, fh, rfl, rfl⟩ := decodeInit_eq_instr h
      exact ⟨rfl, rfl, rfl⟩
    · obtain ⟨lo, hi, rfl, rfl⟩ := decodeDelta_eq_instr h
      exact ⟨rfl, rfl, by simp [encode, lowByte_u16le, highByte_u16le]⟩
    · cases h
      exact ⟨hw, hrec, by rw [henc, List.singleton_append]⟩

/-- An illegal opcode byte is a well-formed record of one of the six rows (R51). -/
theorem decode_illegalRows {op : Byte} (h : 4 ≤ op.toNat) (rest : List Byte) :
    ∃ row ∈ illegalRows, decode (op :: rest) = .instr (row op) rest ∧
      (row op).wellFormed = true := by
  obtain ⟨-, rfl⟩ | ⟨-, rfl⟩ | ⟨i, hd, hw, hrec, henc⟩ := decodeHead_spec op
  · exact absurd h (by decide)
  · exact absurd h (by decide)
  · have hdec : decode (op :: rest) = .instr i rest := by simp [decode, hd]
    cases i with
    | init | delta => simp [encode] at henc
    | full | nop =>
      cases henc
      exact absurd h (by decide)
    | illegal04 | illegal08 | illegal10 | illegal20 | illegal40 | illegal80 =>
      cases henc
      exact ⟨_, by simp [illegalRows], hdec, hw⟩
    | lit | run => cases hrec

/-- Settles O5: the four legal opcodes decode by evaluation, and every other byte lies in one of the
illegal rows. -/
theorem opcodeMap : Obligations.OpcodeMap := by
  refine fun op rest => ⟨?_, ?_, ?_, ?_, fun hop => ?_⟩
  · rintro rfl bw bh fw fh r rfl
    exact decode_init bw bh fw fh r
  · rintro rfl
    rfl
  · rintro rfl
    rfl
  · rintro rfl lo hi r rfl
    exact decode_delta lo hi r
  · obtain ⟨row, hrow, hdec, hw⟩ := decode_illegalRows hop rest
    refine ⟨row op, hdec, hw, ?_⟩
    simp only [illegalRows, List.mem_cons, List.not_mem_nil, or_false] at hrow
    obtain rfl | rfl | rfl | rfl | rfl | rfl := hrow <;> simp

/-- Settles O6, by evaluating the decoders on the seven words. -/
theorem specWordsDecode : Obligations.SpecWordsDecode := by
  unfold Obligations.SpecWordsDecode
  decide

/-! Tokens (R47, R64, R66). -/

/-- Settles O3, by cases on the token. -/
theorem decodeOfEncodedToken : Obligations.DecodeOfEncodedToken := by
  intro t rest h
  cases t with
  | lit b => exact decodeToken_lit (h b rfl)
  | run b n => exact decodeToken_run b n rest

/-- Settles O4, along the decoder's lookahead: a last byte and a byte before a different one are
literals, a doubled byte with its count is a run. -/
theorem decodedTokenIsItsEncoding : Obligations.DecodedTokenIsItsEncoding := by
  intro bytes rest i h
  match bytes with
  | [] => cases h
  | [b] =>
    cases h
    exact ⟨.lit b, rfl, rfl, by simp⟩
  | b :: c :: rest' =>
    by_cases hc : c = b
    · subst hc
      match rest' with
      | [] => simp [decodeToken_pair] at h
      | n :: rest'' =>
        rw [decodeToken_run] at h
        cases h
        exact ⟨.run c n, rfl, rfl, nofun⟩
    · rw [decodeToken_lit (by simpa using hc)] at h
      cases h
      refine ⟨.lit b, rfl, rfl, ?_⟩
      rintro _ ⟨⟩
      simpa using hc

end Sys2Proof.Machine

/-!
PROOF. What the instructions leave of the launch and the geometry (10_state.md R14 to R16,
20_memory.md R27), and what every STEP keeps: the invariant, the cursor and the idle state.
-/

namespace Sys2Proof.Machine

/-! The launch and the geometry (R14 to R16, R27). -/

/-- What every instruction but INIT may write: neither the launch nor the geometry nor the opcode
noted. -/
def GeometryKept (s t : State) : Prop :=
  t = { s with
    pos := t.pos, faulted := t.faulted, cause := t.cause, lastMore := t.lastMore, busy := t.busy,
    fb := t.fb, scratch := t.scratch, work := t.work }

theorem GeometryKept.of_completed {s t : State}
    (h : t = { s with pos := t.pos, scratch := t.scratch, fb := t.fb, work := t.work }) :
    GeometryKept s t := by
  unfold GeometryKept
  rw [h]

theorem GeometryKept.of_faulted {s t : State} (h : RecordFaulted s t) : GeometryKept s t := by
  obtain ⟨-, ht⟩ := h
  unfold GeometryKept
  rw [ht]

theorem GeometryKept.geomOk_eq {s t : State} (h : GeometryKept s t) : t.geomOk = s.geomOk := by
  unfold GeometryKept at h
  rw [h]
  rfl

theorem exec_token_geometryKept {tok : Token} {s t : State} (h : exec tok.instr s = .next t) :
    GeometryKept s t := by
  rcases Nat.lt_or_ge s.work.out s.work.bodyLen with hb | hb
  · rw [exec_token_inBody tok hb] at h
    cases h
    obtain ⟨-, b, -, he⟩ | ⟨-, he⟩ := emitToken_cases tok hb <;> rw [he] <;> rfl
  · rw [exec_token_outside tok hb] at h
    cases h

theorem exec_geometryKept {i : Instr} {s t : State} (hi : ∀ a b c d, i ≠ .init a b c d)
    (h : exec i s = .next t) : GeometryKept s t := by
  cases i with
  | init a b c d => exact absurd rfl (hi a b c d)
  | full =>
    obtain ⟨u, hu, hend, -⟩ := execFull_spec s
    cases hu.symm.trans h
    exact hend.elim .of_completed .of_faulted
  | delta len =>
    obtain ⟨u, hu, hend, -⟩ := execDelta_spec len s
    cases hu.symm.trans h
    exact hend.elim .of_completed .of_faulted
  | nop | illegal04 | illegal08 | illegal10 | illegal20 | illegal40 | illegal80 =>
    cases h
    rfl
  | lit b => exact exec_token_geometryKept (tok := .lit b) h
  | run b n => exact exec_token_geometryKept (tok := .run b n) h

/-- Settles O16: INIT writes registers only, and the other instructions keep the launch. -/
theorem assetIsImmutable : Obligations.AssetIsImmutable := by
  intro i s t h
  by_cases hi : ∃ a b c d, i = .init a b c d
  · obtain ⟨a, b, c, d, rfl⟩ := hi
    cases h
    split_ifs <;> exact ⟨rfl, rfl, rfl⟩
  · have hkept := exec_geometryKept (by simpa using hi) h
    unfold GeometryKept at hkept
    rw [hkept]
    exact ⟨rfl, rfl, rfl⟩

/-- Settles O17: no geometry register is among those the other instructions may write. -/
theorem onlyInitWritesGeometry : Obligations.OnlyInitWritesGeometry := by
  intro i s t hi h
  have hkept := exec_geometryKept hi h
  unfold GeometryKept at hkept
  rw [hkept]
  exact ⟨rfl, rfl, rfl, rfl, rfl, rfl, rfl⟩

theorem State.geomOk_setGeometry {a b : Byte} (ha : a ≠ 0) (hb : b ≠ 0) (c d : Byte) (s : State) :
    (s.setGeometry a b c d).geomOk = true := by
  simpa [State.geomOk] using ⟨ha, hb⟩

/-- Every instruction keeps the geometry consistent (R14 to R16). -/
theorem exec_geomOk {i : Instr} {s t : State} (h : exec i s = .next t) (hg : s.geomOk = true) :
    t.geomOk = true := by
  by_cases hi : ∃ a b c d, i = .init a b c d
  · obtain ⟨a, b, c, d, rfl⟩ := hi
    by_cases hz : a = 0 ∨ b = 0
    · cases (exec_init_zero hz c d s).symm.trans h
      exact hg
    · obtain ⟨ha, hb⟩ := not_or.mp hz
      cases (exec_init_ready ha hb c d s).symm.trans h
      exact State.geomOk_setGeometry ha hb c d s
  · exact (exec_geometryKept (by simpa using hi) h).geomOk_eq.trans hg

/-! A STEP that reads an opcode byte (R68). -/

/-- The STEP entered the fault state (R92). -/
def StepFaulted (s t : State) : Prop :=
  t.cause ≠ .none ∧
  t = { s with
    pos := t.pos, lastOp := s.assetByte s.pos.toNat, lastOpValid := true,
    faulted := true, cause := t.cause, lastMore := false, work := Work.idle,
    fb := t.fb, scratch := t.scratch }

/-- The STEP completed its record and returned MORE (R68). -/
def StepMore (s t : State) : Prop :=
  t = { s with
    pos := t.pos, lastOp := s.assetByte s.pos.toNat, lastOpValid := true,
    bw := t.bw, bh := t.bh, fw := t.fw, fh := t.fh, xb := t.xb, yb := t.yb,
    geomValid := t.geomValid, lastMore := true, work := Work.idle,
    fb := t.fb, scratch := t.scratch }

/-- What a STEP that reads an opcode byte does, whatever its record is. -/
structure StepRecord (s t : State) : Prop where
  pos_lt : s.pos.toNat < t.pos.toNat
  pos_le : t.pos.toNat ≤ s.assetLen.toNat
  spaces : SpacesKept s t
  geom : s.geomOk = true → t.geomOk = true
  ends : StepFaulted s t ∨ StepMore s t

/-- The record's fixed part lies ahead, so the cursor stands past it within the asset (R12). -/
theorem State.toNat_atRecord_pos {s : State} {i : Instr} {rest : List Byte}
    (ha : s.ahead = encode i ++ rest) :
    s.pos.toNat < (s.atRecord i).pos.toNat ∧ (s.atRecord i).pos.toNat ≤ s.assetLen.toNat := by
  obtain ⟨r, hr⟩ := encode_eq_cons i
  have hlen : 0 < (encode i).length := by rw [hr]; simp
  have hahead := s.length_ahead
  rw [ha, List.length_append] at hahead
  have hpos : (s.atRecord i).pos.toNat = s.pos.toNat + (encode i).length :=
    State.toNat_advance (s := s.accept.noteOpcode ((encode i).headD 0))
      (by simp only [State.noteOpcode_pos, State.accept_pos, State.noteOpcode_assetLen,
            State.accept_assetLen]; omega)
  omega

theorem CutShort.stepRecord {s t : State} (hb : s.busy = false) (h : CutShort s t) :
    StepRecord s t := by
  have hcut : ∃ op n r, s.ahead = op :: r ∧ 0 < n ∧ n ≤ s.ahead.length ∧
      t = ((s.accept.noteOpcode op).advance n).raise .readPastEnd := by
    obtain ⟨ht, hop, -⟩ | ⟨ht, hop, -⟩ := h <;> obtain ⟨r, hr⟩ := List.head?_eq_some_iff.mp hop
    · exact ⟨_, _, r, hr, by simp [hr], le_rfl, ht⟩
    · exact ⟨_, _, r, hr, one_pos, by simp [hr], ht⟩
  obtain ⟨op, n, r, ha, hn, hle, rfl⟩ := hcut
  obtain ⟨hlt, hop, -⟩ := State.ahead_eq_cons ha
  rw [s.length_ahead] at hle
  have hpos : (((s.accept.noteOpcode op).advance n).raise .readPastEnd).pos.toNat =
      s.pos.toNat + n := State.toNat_advance (s := s) (n := n) (by omega)
  have hlt' : s.pos.toNat <
      (((s.accept.noteOpcode op).advance n).raise .readPastEnd).pos.toNat := by omega
  have hle' : (((s.accept.noteOpcode op).advance n).raise .readPastEnd).pos.toNat ≤
      s.assetLen.toNat := by omega
  refine ⟨hlt', hle', ⟨fun _ => ⟨hlt'.le, hle'⟩, id, id, id, id⟩, id, .inl ⟨by simp, ?_⟩⟩
  simp [State.raise, State.advance, State.noteOpcode, State.accept, hop, hb]

/-- A STEP that runs a record moves the cursor past the record's fixed part, and keeps the rest of
what its record keeps. -/
theorem stepRecord_of_exec {s t : State} {i : Instr} {rest : List Byte} (hb : s.busy = false)
    (ha : s.ahead = encode i ++ rest) (hexec : exec i (s.atRecord i) = .next t)
    (hend : RecordDone (s.atRecord i) t ∨ RecordFaulted (s.atRecord i) t)
    (hsp : SpacesKept (s.atRecord i) t) (hf : s.faulted = false) :
    StepRecord s (if t.faulted then t else t.returnMore) := by
  obtain ⟨hlt, hle⟩ := State.toNat_atRecord_pos ha
  obtain ⟨hge, hle'⟩ := hsp.pos hle
  obtain ⟨-, hop⟩ := State.assetByte_of_ahead_encode ha
  have hspaces : SpacesKept s t :=
    ⟨fun _ => ⟨by omega, hle'⟩, hsp.fb_wf, hsp.fb_below, hsp.scratch_wf, hsp.scratch_below⟩
  have hgeom : s.geomOk = true → t.geomOk = true :=
    exec_geomOk (s := s.atRecord i) hexec
  obtain hdone | ⟨hcause, ht⟩ := hend
  · have htf : ¬ t.faulted = true := by
      rw [hdone.bookkeeping.1]
      exact Bool.eq_false_iff.mp hf
    rw [if_neg htf]
    refine ⟨by simpa using by omega, hle', ⟨hspaces.pos, hspaces.fb_wf, hspaces.fb_below,
      hspaces.scratch_wf, hspaces.scratch_below⟩, hgeom, .inr ?_⟩
    unfold RecordDone at hdone
    unfold StepMore
    rw [hdone, hop]
    simp [State.returnMore, State.atRecord_eq, hb]
  · have htf : t.faulted = true := by rw [ht]
    rw [if_pos htf]
    refine ⟨by omega, hle', hspaces, hgeom, .inl ⟨hcause, ?_⟩⟩
    rw [ht, hop]
    simp [State.atRecord_eq, hb]

/-- The three kinds of STEP that answer (R68): in the fault state, at the end of the asset, or at an
opcode byte. -/
theorem step_next_kinds {s t : State} (h : step s = .next t) :
    s.busy = false ∧
    ((s.faulted = true ∧ t = s) ∨
      (s.faulted = false ∧ s.assetLen.toNat ≤ s.pos.toNat ∧ t = { s with lastMore := false }) ∨
      (s.faulted = false ∧ s.pos.toNat < s.assetLen.toNat ∧ StepRecord s t)) := by
  have hnext : ∀ {u}, step s = .next u → t = u := fun hu => by cases h.symm.trans hu; rfl
  obtain ⟨-, hs⟩ | ⟨hb, hf, hs⟩ | ⟨hb, hf, hnil, hs⟩ | ⟨hb, hf, u, hs, hcut⟩ |
    ⟨hb, hf, i, rest, -, -, -, ha, u, hexec, hend, hsp, hs⟩ := step_cases s
  · rw [hs] at h; cases h
  · exact ⟨hb, .inl ⟨hf, hnext hs⟩⟩
  · refine ⟨hb, .inr (.inl ⟨hf, State.ahead_eq_nil.mp hnil, ?_⟩)⟩
    rw [hnext hs, State.accept_endOfStream hb]
  · obtain rfl := hnext hs
    have hrec := hcut.stepRecord hb
    exact ⟨hb, .inr (.inr ⟨hf, hrec.pos_lt.trans_le hrec.pos_le, hrec⟩)⟩
  · rw [hnext hs]
    have hrec := stepRecord_of_exec hb ha hexec hend hsp hf
    exact ⟨hb, .inr (.inr ⟨hf, hrec.pos_lt.trans_le hrec.pos_le, hrec⟩)⟩

/-! The invariant (R12, R14 to R22, R26). -/

/-- Clearing `last_more` keeps the invariant. -/
theorem State.Inv.endOfStream {s : State} (hs : s.Inv) :
    State.Inv { s with lastMore := false } where
  cfg_legal := hs.cfg_legal
  pos_le := hs.pos_le
  asset_wf := hs.asset_wf
  asset_below := hs.asset_below
  fb_wf := hs.fb_wf
  fb_below := hs.fb_below
  scratch_wf := hs.scratch_wf
  scratch_below := hs.scratch_below
  geom := hs.geom
  cause_iff := hs.cause_iff
  fault_more := fun _ => rfl
  unread := fun hv =>
    have ⟨hpos, hop, hgv, _, hf⟩ := hs.unread hv
    ⟨hpos, hop, hgv, rfl, hf⟩
  idle := hs.idle
  work_idle := hs.work_idle

/-- What the two ends of a record share of the invariant: the launch and the idle state, with the
fault registers in agreement. -/
theorem StepRecord.bookkeeping {s t : State} (h : StepRecord s t) (hf : s.faulted = false)
    (hc : s.faulted = true ↔ s.cause ≠ Cause.none) :
    t.cfg = s.cfg ∧ t.asset = s.asset ∧ t.assetLen = s.assetLen ∧ t.busy = s.busy ∧
      t.work = Work.idle ∧ t.lastOpValid = true ∧ (t.faulted = true ↔ t.cause ≠ Cause.none) ∧
      (t.faulted = true → t.lastMore = false) := by
  obtain ⟨hcause, ht⟩ | ht := h.ends
  · have htf : t.faulted = true := by rw [ht]
    refine ⟨?_, ?_, ?_, ?_, ?_, ?_, iff_of_true htf hcause, fun _ => ?_⟩ <;> rw [ht]
  · have htf : t.faulted = s.faulted := by rw [ht]
    have htc : t.cause = s.cause := by rw [ht]
    have hkeep : t.cfg = s.cfg ∧ t.asset = s.asset ∧ t.assetLen = s.assetLen ∧ t.busy = s.busy ∧
        t.work = Work.idle ∧ t.lastOpValid = true := by
      rw [ht]
      exact ⟨rfl, rfl, rfl, rfl, rfl, rfl⟩
    obtain ⟨hcfg, hasset, hlen, hbusy, hwork, hvalid⟩ := hkeep
    refine ⟨hcfg, hasset, hlen, hbusy, hwork, hvalid, by rwa [htf, htc], fun hft => ?_⟩
    rw [htf, hf] at hft
    cases hft

/-- A STEP at an opcode byte keeps the invariant. -/
theorem State.Inv.stepRecord {s t : State} (hs : s.Inv) (hf : s.faulted = false)
    (h : StepRecord s t) : t.Inv := by
  obtain ⟨hcfg, hasset, hlen, hbusy, hwork, hvalid, hcause, hmore⟩ :=
    h.bookkeeping hf hs.cause_iff
  exact {
    cfg_legal := hcfg ▸ hs.cfg_legal
    pos_le := hlen ▸ h.pos_le
    asset_wf := hasset ▸ hs.asset_wf
    asset_below := by rw [hasset, hlen]; exact hs.asset_below
    fb_wf := h.spaces.fb_wf hs.fb_wf
    fb_below := hcfg ▸ h.spaces.fb_below hs.fb_below
    scratch_wf := h.spaces.scratch_wf hs.scratch_wf
    scratch_below := hcfg ▸ h.spaces.scratch_below hs.scratch_below
    geom := h.geom hs.geom
    cause_iff := hcause
    fault_more := hmore
    unread := fun hv => absurd (hvalid.symm.trans hv) (by decide)
    idle := hbusy.trans hs.idle
    work_idle := hwork }

/-- Settles O18: the invariant is kept by each of the three kinds of STEP that answer. -/
theorem stepKeepsInvariant : Obligations.StepKeepsInvariant := by
  intro s t hs h
  obtain ⟨-, ⟨-, rfl⟩ | ⟨-, -, rfl⟩ | ⟨hf, -, hrec⟩⟩ := step_next_kinds h
  · exact hs
  · exact hs.endOfStream
  · exact hs.stepRecord hf hrec

theorem State.Inv.launch {cfg : Config} {asset : Mem} {len : Word} (hcfg : cfg.legal = true)
    (hwf : asset.wf = true) (hbelow : asset.below len.toNat = true) :
    (State.launch cfg asset len).Inv where
  cfg_legal := hcfg
  pos_le := Nat.zero_le _
  asset_wf := hwf
  asset_below := hbelow
  fb_wf := rfl
  fb_below := rfl
  scratch_wf := rfl
  scratch_below := rfl
  geom := rfl
  cause_iff := by simp [State.launch]
  fault_more := nofun
  unread := fun _ => ⟨rfl, rfl, rfl, rfl, rfl⟩
  idle := rfl
  work_idle := rfl

/-- Settles O19: reset is the launch of an empty asset in the reference configuration. -/
theorem invariantAtLaunch : Obligations.InvariantAtLaunch :=
  ⟨State.Inv.launch (by decide) rfl rfl, fun _ _ _ hcfg hwf hbelow =>
    State.Inv.launch hcfg hwf hbelow⟩

/-! The cursor and the idle state. -/

/-- A STEP moves the cursor forward within the asset, at an opcode byte by at least one (R12). -/
theorem step_pos {s t : State} (hp : s.pos.toNat ≤ s.assetLen.toNat) (h : step s = .next t) :
    t.assetLen = s.assetLen ∧ s.pos.toNat ≤ t.pos.toNat ∧ t.pos.toNat ≤ s.assetLen.toNat := by
  obtain ⟨-, ⟨-, rfl⟩ | ⟨-, -, rfl⟩ | ⟨-, -, hrec⟩⟩ := step_next_kinds h
  · exact ⟨rfl, le_rfl, hp⟩
  · exact ⟨rfl, le_rfl, hp⟩
  · refine ⟨?_, hrec.pos_lt.le, hrec.pos_le⟩
    obtain ⟨-, ht⟩ | ht := hrec.ends <;> rw [ht]

/-- Settles O15: each kind of STEP moves the cursor forward within the asset. -/
theorem cursorIsMonotone : Obligations.CursorIsMonotone := by
  intro s t hp h
  obtain ⟨hlen, hge, hle⟩ := step_pos hp h
  exact ⟨hge, hlen ▸ hle⟩

/-- An accepted STEP answers (R68). -/
theorem exists_step_next {s : State} (hb : s.busy = false) : ∃ t, step s = .next t := by
  obtain ⟨hb', -⟩ | ⟨-, -, h⟩ | ⟨-, -, -, h⟩ | ⟨-, -, t, h, -⟩ |
    ⟨-, -, i, rest, -, -, -, -, u, -, -, -, h⟩ := step_cases s
  · rw [hb] at hb'; cases hb'
  all_goals exact ⟨_, h⟩

/-- A STEP that answers is over: the block is idle, and so are the working values (R19, R22). -/
theorem step_next_idle {s t : State} (h : step s = .next t) :
    t.busy = false ∧ (s.work = Work.idle → t.work = Work.idle) := by
  obtain ⟨hb, ⟨-, rfl⟩ | ⟨-, -, rfl⟩ | ⟨-, -, hrec⟩⟩ := step_next_kinds h
  · exact ⟨hb, id⟩
  · exact ⟨hb, id⟩
  · obtain ⟨-, ht⟩ | ht := hrec.ends <;> rw [ht] <;> exact ⟨hb, fun _ => rfl⟩

/-- Settles O12: an accepted STEP has a next state, and what a STEP answers is idle. -/
theorem everyStepCompletes : Obligations.EveryStepCompletes := fun _ hb =>
  have ⟨t, h⟩ := exists_step_next hb
  have ⟨htb, hwork⟩ := step_next_idle h
  ⟨t, h, htb, hwork⟩

end Sys2Proof.Machine

/-!
PROOF. The cursor's reads (40_bitstream_cursor.md R55 to R58), the tokens and the inflate of a
compressed body (41_inflate.md R60 to R67).
-/

namespace Sys2Proof.Machine

/-! The cursor (R55 to R58). -/

theorem getElem?_assetBytes (s : State) (a n k : Nat) :
    (assetBytes s a n)[k]? =
      if k < n ∧ a + k < s.assetLen.toNat then some (s.assetByte (a + k)) else none := by
  induction n generalizing a k with
  | zero => simp [assetBytes]
  | succ n ih =>
    by_cases ha : a < s.assetLen.toNat
    · cases k with
      | zero => simp [assetBytes, ha]
      | succ k => simp [assetBytes, ha, ih, Nat.add_assoc, Nat.add_comm 1]
    · simp [assetBytes, ha, show ¬ a + k < s.assetLen.toNat by omega]

/-- The bytes ahead are the asset bytes from the cursor to the end. -/
theorem State.getElem?_ahead (s : State) (k : Nat) :
    s.ahead[k]? =
      if s.pos.toNat + k < s.assetLen.toNat then some (s.assetByte (s.pos.toNat + k))
      else none := by
  rw [State.ahead, getElem?_assetBytes]
  exact if_congr (by omega) rfl rfl

/-- Settles O29: each read answers by its own end test. -/
theorem cursorReads : Obligations.CursorReads := by
  refine fun s => ⟨decide_eq_true_iff, fun hend => ?_, fun hlt => ?_, fun hshort => ?_,
    fun hle => ?_, fun _ => rfl, s.getElem?_ahead⟩
  · have ha := State.ahead_eq_nil.mpr hend
    exact ⟨peekU8_nil ha, readU8_nil ha⟩
  · have ha := State.ahead_advance (s := s) (n := 0) hlt
    rw [State.advance_zero, Nat.add_zero] at ha
    exact ⟨peekU8_cons ha, readU8_cons ha⟩
  · exact readU16_short (by rw [s.length_ahead]; omega)
  · exact ⟨_, if_pos hle, toNat_u16le _ _⟩

/-! Token instructions (R61, R62). -/

/-- Settles O30: a literal is an emission of one byte. -/
theorem litEmitsOneCopy : Obligations.LitEmitsOneCopy := by
  intro b s hbody
  refine ⟨s.emit 1 b, exec_token_inBody (.lit b) hbody, rfl, fun a => ?_⟩
  rw [State.emit_scratch, Mem.read_fill]
  exact if_congr (by omega) rfl rfl

/-- Settles O31: a run within the target is an emission of `1 + n` bytes. -/
theorem runEmitsAllCopies : Obligations.RunEmitsAllCopies := by
  intro b n s hfits
  refine ⟨s.emit (1 + n.toNat) b, ?_, by simp [State.emit, Nat.add_assoc], fun a => ?_⟩
  · have h := exec_token_inBody (s := s) (.run b n) (by omega)
    rwa [emitToken_run_fits hfits] at h
  · rw [State.emit_scratch, Mem.read_fill, Nat.add_assoc]

/-- Settles O33: both are tokens, which have no meaning outside a body. -/
theorem tokenOutsideBodyStops : Obligations.TokenOutsideBodyStops := fun b n _ h =>
  ⟨exec_token_outside (.lit b) h, exec_token_outside (.run b n) h⟩

/-! The token fetch (R60, R64). -/

/-- What the token fetch gives is what the token decoder reads. -/
theorem decodeToken_of_fetchToken {s u : State} {t : Token} (h : fetchToken s = .ok t u) :
    (∃ rest, decodeToken s.ahead = .instr t.instr rest) ∧
      u = s.advance (encode t.instr).length := by
  obtain ⟨-, hf⟩ | ⟨b, -, hf⟩ | ⟨b, r, ha, hr, hf⟩ | ⟨b, n, r, ha, hf⟩ := fetchToken_cases s <;>
    cases hf.symm.trans h
  · exact ⟨⟨r, ha ▸ decodeToken_lit hr⟩, rfl⟩
  · exact ⟨⟨r, ha ▸ decodeToken_run b n r⟩, rfl⟩

theorem decodeToken_noByte {bytes : List Byte} (h : decodeToken bytes = .rejected .noByte) :
    bytes = [] := by
  match bytes with
  | [] => rfl
  | [b] => cases h
  | b :: c :: rest =>
    by_cases hc : c = b
    · subst hc
      cases rest with
      | nil => rw [decodeToken_pair] at h; cases h
      | cons n rest => rw [decodeToken_run] at h; cases h
    · rw [decodeToken_lit (by simpa using hc)] at h
      cases h

theorem decodeToken_runCutShort {bytes : List Byte}
    (h : decodeToken bytes = .rejected .runCutShort) : ∃ b, bytes = [b, b] := by
  match bytes with
  | [] => cases h
  | [b] => cases h
  | b :: c :: rest =>
    by_cases hc : c = b
    · subst hc
      match rest with
      | [] => exact ⟨c, rfl⟩
      | n :: rest => rw [decodeToken_run] at h; cases h
    · rw [decodeToken_lit (by simpa using hc)] at h
      cases h

/-- A body cut short at the cursor faults with the cursor at the end (R57, R62). -/
theorem fetchToken_cutShort {s : State} (hp : s.pos.toNat ≤ s.assetLen.toNat)
    (h : s.ahead = [] ∨ ∃ b, s.ahead = [b, b]) :
    fetchToken s = .raised (State.raise .readPastEnd { s with pos := s.assetLen }) := by
  have hend : s.advance s.ahead.length = { s with pos := s.assetLen } := by
    rw [State.advance, State.pos_add_length_ahead hp]
  rw [← hend]
  obtain ⟨ha, hf⟩ | ⟨b, ha, hf⟩ | ⟨b, r, ha, hr, -⟩ | ⟨b, n, r, ha, -⟩ := fetchToken_cases s
  · rw [hf, ha, List.length_nil, State.advance_zero]
  · rw [hf, ha]
    rfl
  · obtain hnil | ⟨c, hpair⟩ := h
    · simp [ha] at hnil
    · obtain ⟨rfl, rfl⟩ := List.cons.inj (ha.symm.trans hpair)
      simp at hr
  · obtain hnil | ⟨c, hpair⟩ := h
    · simp [ha] at hnil
    · simp [ha] at hpair

/-- Settles O34: the three ways the token fetch ends are the three answers of the token decoder. -/
theorem tokenFetchIsTokenDecode : Obligations.TokenFetchIsTokenDecode := by
  refine fun s => ⟨fun t rest h => fetchToken_of_decodeToken h, fun h => ?_, fun h => ?_⟩
  · obtain ⟨-, hf⟩ | ⟨b, ha, -⟩ | ⟨b, r, ha, -⟩ | ⟨b, n, r, ha, -⟩ := fetchToken_cases s
    · exact hf
    all_goals simp [decodeToken_noByte h] at ha
  · obtain ⟨b, ha⟩ := decodeToken_runCutShort h
    exact fetchToken_cutShort (State.ahead_eq_cons ha).1.le (.inr ⟨b, ha⟩)

/-- A round of the loop runs the effect of the decoded token (R60). -/
theorem inflateLoop_decoded {s : State} {t : Token} {rest : List Byte}
    (hbody : s.work.out < s.work.bodyLen) (hd : decodeToken s.ahead = .instr t.instr rest)
    (k : Nat) :
    inflateLoop (k + 1) s =
      (emitToken t (s.advance (encode t.instr).length)).bind fun _ u => inflateLoop k u := by
  simp [inflateLoop, State.atToken, hbody, fetchToken_of_decodeToken hd]

/-- Settles O35: inside a body a token's meaning is its effect, which enters the fault state exactly
when it raises. -/
theorem inflateRunsDecodedToken : Obligations.InflateRunsDecodedToken := by
  intro k s u t rest hf hbody hd hexec
  have hbody' : (s.advance (encode t.instr).length).work.out <
      (s.advance (encode t.instr).length).work.bodyLen := hbody
  cases (exec_token_inBody t hbody').symm.trans hexec
  rw [inflateLoop_decoded hbody hd]
  obtain ⟨-, b, -, he⟩ | ⟨-, he⟩ := emitToken_cases t hbody' <;> rw [he]
  · exact (if_neg (by simp [Res.state, hf])).symm
  · exact (if_pos rfl).symm

/-! A body inflates to its tokens' expansion (R60 to R62). -/

theorem Token.expand_eq_replicate (t : Token) :
    t.expand = List.replicate t.expand.length (Token.byte t) := by
  cases t with
  | lit b => rfl
  | run b n => simp [Token.expand, Token.byte]

/-- The scratch bytes from `out` up hold the tokens' expansion. -/
theorem foldl_takeToken_read (toks : List Token) (s : State) (a : Nat) :
    (toks.foldl State.takeToken s).scratch.read a =
      if s.work.out ≤ a then ((expandTokens toks)[a - s.work.out]?).getD (s.scratch.read a)
      else s.scratch.read a := by
  induction toks generalizing s with
  | nil => simp [expandTokens]
  | cons t ts ih =>
    rw [List.foldl_cons, ih]
    have hout : (s.takeToken t).work.out = s.work.out + t.expand.length := rfl
    have hread : (s.takeToken t).scratch.read a =
        if s.work.out ≤ a ∧ a < s.work.out + t.expand.length then Token.byte t
        else s.scratch.read a := Mem.read_fill ..
    rw [hout, hread, expandTokens]
    rcases Nat.lt_or_ge a s.work.out with h₁ | h₁
    · simp [Nat.not_le.mpr h₁, show ¬ s.work.out + t.expand.length ≤ a by omega]
    · rcases Nat.lt_or_ge a (s.work.out + t.expand.length) with h₂ | h₂
      · have hbyte : t.expand[a - s.work.out]? = some (Token.byte t) := by
          rw [Token.expand_eq_replicate, List.getElem?_replicate, if_pos (by omega)]
        simp only [h₁, h₂, Nat.not_le.mpr h₂, and_self, if_true, if_false]
        rw [List.getElem?_append_left (by omega), hbyte]
        rfl
      · simp only [h₁, h₂, Nat.not_lt.mpr h₂, and_false, if_true, if_false]
        rw [List.getElem?_append_right (by omega), Nat.sub_sub]

/-- Settles O36: inflate takes the tokens one after another, each moving the cursor over its bytes
and writing its expansion at `out`. -/
theorem inflateRoundTrip : Obligations.InflateRoundTrip := by
  intro s toks htoks hcap
  refine ⟨_, inflate_tokens htoks rfl hcap, ?_, fun a => ?_⟩
  · rw [foldl_takeToken]
    simp [State.startBody]
  · simp [foldl_takeToken_read]

/-! Inflate completes only on a body (R60, R67). -/

/-- A token decoded at the cursor, and tokens after it, are tokens at the cursor. -/
theorem tokensAt_cons_of_decodeToken {s : State} {t : Token} {ts : List Token} {rest : List Byte}
    (hd : decodeToken s.ahead = .instr t.instr rest)
    (hts : tokensAt s (s.pos.toNat + (encode t.instr).length) ts = true) :
    s.pos.toNat + (encode t.instr).length ≤ s.assetLen.toNat ∧
      tokensAt s s.pos.toNat (t :: ts) = true := by
  have hget := s.getElem?_ahead
  obtain ⟨t', ht, henc, hlit⟩ := decodedTokenIsItsEncoding _ _ _ hd
  obtain rfl := Token.instr_injective ht
  have hlen := s.length_ahead
  rw [← henc] at hget hlen
  cases t with
  | lit b =>
    have hlt : s.pos.toNat < s.assetLen.toNat := by
      simp only [Token.instr, encode, List.length_append, List.length_singleton] at hlen
      omega
    have h0 := hget 0
    have h1 := hget 1
    simp only [Token.instr, encode, List.singleton_append, List.getElem?_cons_zero, Nat.add_zero,
      hlt, if_true, Option.some.injEq] at h0
    simp only [Token.instr, encode, List.singleton_append, List.getElem?_cons_succ,
      ← List.head?_eq_getElem?] at h1
    have hne := hlit b rfl
    rw [h1] at hne
    refine ⟨hlt, ?_⟩
    simp only [tokensAt, Bool.and_eq_true, Bool.or_eq_true, decide_eq_true_eq, beq_iff_eq,
      bne_iff_ne]
    refine ⟨⟨⟨hlt, h0.symm⟩, ?_⟩, hts⟩
    rcases Nat.lt_or_ge (s.pos.toNat + 1) s.assetLen.toNat with hlt1 | hge1
    · rw [if_pos hlt1] at hne
      exact .inr fun h => hne (congrArg some h)
    · exact .inl hge1
  | run b n =>
    have hlt : s.pos.toNat + 2 < s.assetLen.toNat := by
      simp only [Token.instr, encode, List.length_append, List.length_cons, List.length_nil] at hlen
      omega
    have h0 := hget 0
    have h1 := hget 1
    have h2 := hget 2
    rw [if_pos (by omega)] at h0 h1 h2
    simp only [Token.instr, encode, List.cons_append, List.nil_append, List.getElem?_cons_zero,
      List.getElem?_cons_succ, Option.some.injEq, Nat.add_zero] at h0 h1 h2
    refine ⟨hlt, ?_⟩
    simp only [tokensAt, Bool.and_eq_true, decide_eq_true_eq, beq_iff_eq]
    exact ⟨⟨⟨⟨hlt, h0.symm⟩, h1.symm⟩, h2.symm⟩, hts⟩

/-- A loop that completes with its body unfinished has fetched a token. -/
theorem decodeToken_of_inflateLoop_ok {k : Nat} {s t : State}
    (hbody : s.work.out < s.work.bodyLen) (h : inflateLoop (k + 1) s = .ok () t) :
    ∃ tok rest, decodeToken s.ahead = .instr (Token.instr tok) rest := by
  simp only [inflateLoop, State.atToken, hbody, decide_true, if_true] at h
  obtain ⟨tok, u, hf, -⟩ := Res.bind_eq_ok.mp h
  obtain ⟨⟨rest, hd⟩, -⟩ := decodeToken_of_fetchToken hf
  exact ⟨tok, rest, hd⟩

/-- With rounds enough for its target, the loop completes only by taking tokens that stand at the
cursor and expand to exactly the target. -/
theorem inflateLoop_eq_ok {k : Nat} {s t : State} (h : inflateLoop k s = .ok () t)
    (hout : s.work.out ≤ s.work.bodyLen) (hk : s.work.bodyLen ≤ s.work.out + k) :
    ∃ toks, tokensAt s s.pos.toNat toks = true ∧
      s.work.out + (expandTokens toks).length = s.work.bodyLen ∧
      t = toks.foldl State.takeToken s := by
  induction k generalizing s with
  | zero =>
    cases h
    exact ⟨[], rfl, by simpa [expandTokens] using by omega, rfl⟩
  | succ k ih =>
    rcases Nat.lt_or_ge s.work.out s.work.bodyLen with hbody | hdone
    · obtain ⟨tok, rest, hd⟩ := decodeToken_of_inflateLoop_ok hbody h
      rw [inflateLoop_decoded hbody hd] at h
      obtain ⟨hfits, -⟩ | ⟨-, hover⟩ := emitToken_cases tok
        (s := s.advance (encode tok.instr).length) hbody
      · rw [emitToken_fits tok hfits, Res.bind_ok] at h
        have hpos := Token.expand_pos tok
        simp only [State.advance_work] at hfits
        obtain ⟨ts, hts, hsum, ht⟩ := ih (s := s.takeToken tok) h
          (by simpa [State.takeToken] using hfits)
          (by simp only [State.takeToken, State.emit_work, State.advance_work]; omega)
        have hle : s.pos.toNat + (encode tok.instr).length ≤ s.assetLen.toNat :=
          (tokensAt_cons_of_decodeToken (ts := []) hd rfl).1
        have hpos' : (s.takeToken tok).pos.toNat = _ := State.toNat_advance hle
        rw [tokensAt_takeToken, hpos'] at hts
        refine ⟨tok :: ts, (tokensAt_cons_of_decodeToken hd hts).2, ?_, ht⟩
        simp only [State.takeToken, State.emit_work, State.advance_work] at hsum
        rw [expandTokens, List.length_append]
        omega
      · rw [hover, Res.bind_raised] at h
        cases h
    · have hat : s.atToken = false := decide_eq_false (Nat.not_lt.mpr hdone)
      simp only [inflateLoop, hat, Bool.false_eq_true, if_false] at h
      cases h
      exact ⟨[], rfl, by simpa [expandTokens] using by omega, rfl⟩

/-- Inflate completes only on tokens that expand to exactly its target (R60). -/
theorem inflate_eq_ok {s t : State} {target : Nat} (h : inflate target s = .ok () t) :
    ∃ toks, tokensAt s s.pos.toNat toks = true ∧ (expandTokens toks).length = target ∧
      target ≤ s.cfg.scratchBytes ∧ t = toks.foldl State.takeToken (s.startBody target) := by
  unfold inflate at h
  split_ifs at h with hcap
  obtain ⟨toks, htoks, hsum, ht⟩ := inflateLoop_eq_ok h (Nat.zero_le _) (by simp)
  rw [tokensAt_startBody] at htoks
  exact ⟨toks, htoks, by simpa using hsum, by omega, ht⟩

/-- Tokens lie within the asset. -/
theorem tokensAt_le {s : State} {a : Nat} {toks : List Token} (ha : a ≤ s.assetLen.toNat)
    (h : tokensAt s a toks = true) : a + (encodeTokens toks).length ≤ s.assetLen.toNat := by
  induction toks generalizing a with
  | nil => simpa [encodeTokens] using ha
  | cons t ts ih =>
    rw [encodeTokens, List.length_append, ← Nat.add_assoc]
    cases t with
    | lit b =>
      simp only [tokensAt, Bool.and_eq_true, decide_eq_true_eq] at h
      obtain ⟨⟨⟨hlt, -⟩, -⟩, hts⟩ := h
      exact ih hlt hts
    | run b n =>
      simp only [tokensAt, Bool.and_eq_true, decide_eq_true_eq] at h
      obtain ⟨⟨⟨⟨hlt, -⟩, -⟩, -⟩, hts⟩ := h
      exact ih hlt hts

/-- A token's bytes against the bytes it expands to (R67). -/
theorem length_bounds_token (t : Token) :
    (encode t.instr).length ≤ 3 * t.expand.length ∧
      t.expand.length ≤ 256 * (encode t.instr).length := by
  cases t with
  | lit b => simp [Token.instr, encode, Token.expand]
  | run b n =>
    have := n.isLt
    simp only [Token.instr, encode, Token.expand, List.length_replicate, List.length_cons,
      List.length_nil]
    omega

theorem length_encodeTokens_bounds (toks : List Token) :
    (encodeTokens toks).length ≤ 3 * (expandTokens toks).length ∧
      (expandTokens toks).length ≤ 256 * (encodeTokens toks).length := by
  induction toks with
  | nil => simp [encodeTokens, expandTokens]
  | cons t ts ih =>
    have := length_bounds_token t
    simp only [encodeTokens, expandTokens, List.length_append]
    omega

/-- Settles O37: the tokens the loop took stand at the cursor, and R67's bounds hold of each. -/
theorem inflateCompletesOnlyOnBodies : Obligations.InflateCompletesOnlyOnBodies := by
  intro s t target hp h
  obtain ⟨toks, htoks, rfl, hcap, rfl⟩ := inflate_eq_ok h
  obtain ⟨hthree, h256⟩ := length_encodeTokens_bounds toks
  refine ⟨toks, htoks, rfl, hcap, ?_, hthree, h256⟩
  rw [foldl_takeToken]
  exact State.toNat_advance (s := s) (tokensAt_le hp htoks)

/-! A body cut short (R57, R62), and what a fault in inflate leaves (R88). -/

/-- The loop takes the tokens at the cursor, while they stay within the target. -/
theorem inflateLoop_takeTokens {s : State} {toks : List Token} (k : Nat)
    (h : tokensAt s s.pos.toNat toks = true)
    (hfits : s.work.out + (expandTokens toks).length ≤ s.work.bodyLen) :
    inflateLoop (k + toks.length) s = inflateLoop k (toks.foldl State.takeToken s) := by
  induction toks generalizing s with
  | nil => rfl
  | cons t ts ih =>
    rw [expandTokens, List.length_append, ← Nat.add_assoc] at hfits
    obtain ⟨⟨rest, hd⟩, hle, hts⟩ := decodeToken_of_tokensAt h
    rw [List.length_cons, ← Nat.add_assoc, inflateLoop_takeToken hd (by omega), List.foldl_cons]
    refine ih ?_ hfits
    rw [← State.toNat_advance hle] at hts
    rwa [tokensAt_takeToken]

theorem length_le_expandTokens (toks : List Token) :
    toks.length ≤ (expandTokens toks).length := by
  induction toks with
  | nil => exact le_rfl
  | cons t ts ih =>
    have := Token.expand_pos t
    rw [expandTokens, List.length_append, List.length_cons]
    omega

/-- A round whose fetch faults ends the loop in that fault. -/
theorem inflateLoop_fetch_raised {k : Nat} {s u : State} (hbody : s.work.out < s.work.bodyLen)
    (h : fetchToken s = .raised u) : inflateLoop (k + 1) s = .raised u := by
  simp [inflateLoop, State.atToken, hbody, h]

/-- The bytes ahead, given their number and each of them. -/
theorem State.ahead_eq_of_bytes {s : State} {tail : List Byte}
    (hlen : s.pos.toNat + tail.length = s.assetLen.toNat)
    (h : ∀ k b, tail[k]? = some b → s.assetByte (s.pos.toNat + k) = b) : s.ahead = tail := by
  refine List.ext_getElem? fun k => ?_
  rw [s.getElem?_ahead]
  split_ifs with hk
  · have hget := List.getElem?_eq_getElem (l := tail) (i := k) (by omega)
    rw [hget, h k _ hget]
  · exact (List.getElem?_eq_none (by omega)).symm

/-- Settles O39: the loop takes the whole tokens, and the fetch at what is left of the asset
faults. -/
theorem bodyCutShortFaults : Obligations.BodyCutShortFaults := by
  intro s toks tail target htoks htail hbytes hend hshort hcap
  rw [inflate, if_neg (Nat.not_lt.mpr hcap)]
  have hrounds := length_le_expandTokens toks
  obtain ⟨k, hk⟩ : ∃ k, target = (k + 1) + toks.length := ⟨target - toks.length - 1, by omega⟩
  have hloop := inflateLoop_takeTokens (s := s.startBody target) (k + 1)
    (by rwa [tokensAt_startBody]) (by simpa using hshort.le)
  rw [← hk, foldl_takeToken] at hloop
  have hpos : (s.pos + BitVec.ofNat 32 (encodeTokens toks).length).toNat =
      s.pos.toNat + (encodeTokens toks).length := State.toNat_advance (s := s) (by omega)
  rw [hloop, inflateLoop_fetch_raised (by simpa using hshort) (fetchToken_cutShort ?_ ?_)]
  · exact ⟨_, rfl, rfl⟩
  · simp only [State.startBody_pos, State.startBody_assetLen, hpos]
    omega
  · rw [State.ahead_eq_of_bytes (tail := tail)]
    · exact htail.imp id id
    · simpa only [State.startBody_pos, State.startBody_assetLen, hpos] using hend
    · simp only [State.startBody_pos, hpos]
      exact hbytes

/-- Settles O40: a fault of inflate leaves what `inflate_spec` says, and a frame record runs no walk
after it. -/
theorem inflateFaultLeavesFramebuffer : Obligations.InflateFaultLeavesFramebuffer := by
  intro s t target h
  obtain ⟨u, hu, -⟩ | ⟨u, hu, ⟨hcause, hkeeps⟩, ⟨hscratch, -⟩, -⟩ := inflate_spec target s <;>
    cases hu.symm.trans h
  refine ⟨hcause, hkeeps, hscratch, ?_, ?_⟩
  · rintro rfl
    exact frameRecord_raised _ h
  · rintro len rfl
    exact frameRecord_raised _ h

end Sys2Proof.Machine

/-!
PROOF. The ways a STEP begins and ends (42_geometry_dispatch.md R68): at a record, at a record cut
short and at the end of the asset, after reset and along playback (60_exceptions.md R105).
-/

namespace Sys2Proof.Machine

/-! The head of STEP (R68). -/

/-- Settles O7: `State.atRecord` is the state in which the decoded record runs. -/
theorem stepRunsDecodedRecord : Obligations.StepRunsDecodedRecord := by
  intro s i rest hb hf hd
  obtain ⟨hw, -⟩ := fetchRecord_instr hd
  exact ⟨hw, (step_of_decode hb hf hd).trans (by rw [State.atRecord_eq])⟩

/-- A STEP at a DELTA cut short reads the opcode byte only (R58). -/
theorem step_of_deltaCutShort {s : State} (hb : s.busy = false) (hf : s.faulted = false)
    (hd : decode s.ahead = .rejected .deltaCutShort) :
    step s = .next (((s.accept.noteOpcode 0x03).advance 1).raise .readPastEnd) := by
  obtain ⟨h, -⟩ | ⟨h, -⟩ | ⟨-, -, -, hfetch⟩ :=
    fetchRecord_rejected (s := s.accept) (s.ahead_accept ▸ hd)
  · cases h
  · cases h
  · refine step_of_fetch_raised hb hf (fun ha => ?_) hfetch
    simp [ha, decode] at hd

/-- A record cut short stands before the end of the asset. -/
theorem State.ahead_ne_nil_of_decode {s : State} {e : DecodeError}
    (hd : decode s.ahead = .rejected e) (he : e ≠ .noByte) : s.ahead ≠ [] := by
  intro ha
  rw [ha] at hd
  cases hd
  exact he rfl

/-- Settles O8: the bytes of an INIT that are there are consumed one by one, the length of a DELTA
as a whole. -/
theorem recordCutShortFaults : Obligations.RecordCutShortFaults := by
  refine fun s hb hf => ⟨fun hd => ?_, fun hd => ?_⟩
  · have hne := State.ahead_ne_nil_of_decode hd nofun
    have hend := State.pos_add_length_ahead (Nat.le_of_lt (Nat.lt_of_not_le
      (mt State.ahead_eq_nil.mpr hne)))
    rw [step_of_initCutShort hb hf hd]
    simp [State.raise, State.advance, State.noteOpcode, State.accept, hend, hb]
  · rw [step_of_deltaCutShort hb hf hd]
    simp [State.raise, State.advance, State.noteOpcode, State.accept, hb]

/-- A STEP at the end of the asset clears `last_more` (R68). -/
theorem step_of_end {s : State} (hb : s.busy = false) (hf : s.faulted = false)
    (hend : s.assetLen.toNat ≤ s.pos.toNat) : step s = .next { s with lastMore := false } := by
  have hat : s.accept.atEnd = true := decide_eq_true hend
  simp [step, beginStep, hb, hf, hat, State.accept_endOfStream hb]

/-- Settles O9: the state an END leaves meets the same end test again. -/
theorem endIsRepeatable : Obligations.EndIsRepeatable := by
  intro s hb hf hend
  exact ⟨step_of_end hb hf hend, State.result_of_not_faulted hf,
    step_of_end (s := { s with lastMore := false }) hb hf hend⟩

/-- Settles O11: the first test of STEP. -/
theorem stepWhileBusyRefused : Obligations.StepWhileBusyRefused := by
  intro s hb
  simp [step, beginStep, hb]

/-! The register records (R70, R72). -/

/-- Settles O23: the block counts are the byte quotients. -/
theorem initWritesGeometry : Obligations.InitWritesGeometry := by
  intro bw bh fw fh s hbw hbh
  exact ⟨_, exec_init_ready hbw hbh fw fh s, rfl, BitVec.toNat_udiv, BitVec.toNat_udiv⟩

/-- Settles O24: the zero test precedes the register writes. -/
theorem initZeroDimensionFaults : Obligations.InitZeroDimensionFaults :=
  fun _ _ fw fh s hzero => exec_init_zero hzero fw fh s

/-- Settles O28: the six rows share one meaning. -/
theorem illegalRaisesUnrecognizedOpcode : Obligations.IllegalRaisesUnrecognizedOpcode := by
  rintro op s i (rfl | rfl | rfl | rfl | rfl | rfl) <;> rfl

/-! Reset (R108). -/

/-- R23 in the reset state: STATUS shows AT_END for an empty asset, and nothing else is set. -/
theorem State.statusWord_launch (cfg : Config) (asset : Mem) (len : Word) :
    (State.launch cfg asset len).statusWord = if len = 0 then 4 else 0 := by
  have hend : (State.launch cfg asset len).atEnd = decide (len = 0) := by
    simp [State.atEnd, State.launch, BitVec.toNat_eq]
  rw [State.statusWord, hend]
  simp only [State.launch]
  by_cases h : len = 0 <;> simp only [h, decide_true, decide_false, if_true, if_false] <;> decide

theorem State.register_launch (cfg : Config) (asset : Mem) (len : Word) {n : Nat} (hn : n ≠ 0) :
    (State.launch cfg asset len).register n = 0 := by
  rcases Nat.lt_or_ge n 6 with h | h
  · interval_cases n <;>
      simp [State.faultWord, State.geomWord, State.blocksWord, State.lastOpWord, State.launch,
        Cause.code] at hn ⊢
  · exact State.register_absent _ h

/-- A STEP inside the asset notes the opcode byte at the cursor (R18, R68). -/
theorem step_notes_opcode {s : State} (hb : s.busy = false) (hf : s.faulted = false)
    (hlt : s.pos.toNat < s.assetLen.toNat) :
    ∃ u, step s = .next u ∧ u.lastOpValid = true ∧ u.lastOp = s.assetByte s.pos.toNat := by
  obtain ⟨u, hu⟩ := exists_step_next hb
  obtain ⟨-, ⟨hf', -⟩ | ⟨-, hend, -⟩ | ⟨-, -, hrec⟩⟩ := step_next_kinds hu
  · rw [hf] at hf'; cases hf'
  · omega
  · refine ⟨u, hu, ?_⟩
    obtain ⟨-, ht⟩ | ht := hrec.ends <;> rw [ht] <;> exact ⟨rfl, rfl⟩

/-- Settles O20: reset is the launch of the same asset, whose registers are read off one by one. -/
theorem resetLeavesResetState : Obligations.ResetLeavesResetState := by
  intro s t r h
  cases h
  refine ⟨rfl, rfl, rfl, rfl, rfl, rfl, rfl, rfl, rfl, rfl, rfl, rfl, rfl, rfl, rfl, fun _ => rfl,
    rfl, rfl, rfl, fun d => ?_, fun d n hn => ?_, fun hlen => ?_⟩
  · exact (readRegister_of_idle rfl d 0).trans (State.statusWord_launch _ _ _)
  · exact (readRegister_of_idle rfl d n).trans (State.register_launch _ _ _ hn)
  · exact step_notes_opcode (s := s.rst) rfl rfl hlen

/-! Playback (R105). -/

theorem moreSteps_succ {k : Nat} {s t : State} (h : step s = .next t) :
    moreSteps (k + 1) s = if t.result = .more then moreSteps k t else none := by
  simp [moreSteps, h]

/-- A STEP that returns MORE consumes at least its opcode byte, within the asset, and the next STEP
is accepted (R13, R68). -/
theorem step_more {s t : State} (h : step s = .next t) (hm : t.result = .more) :
    t.busy = false ∧ t.assetLen = s.assetLen ∧ s.pos.toNat < t.pos.toNat ∧
      t.pos.toNat ≤ s.assetLen.toNat := by
  refine ⟨(step_next_idle h).1, ?_⟩
  obtain ⟨-, ⟨hf, rfl⟩ | ⟨hf, -, rfl⟩ | ⟨hf, hlt, hrec⟩⟩ := step_next_kinds h
  · rw [State.result_of_faulted hf] at hm
    cases hm
  · rw [State.result_of_not_faulted (s := { s with lastMore := false }) hf] at hm
    cases hm
  · exact ⟨(step_pos hlt.le h).1, hrec.pos_lt, hrec.pos_le⟩

/-- Settles O21, by induction on the number of STEPs. -/
theorem moreStepsConsumeBytes : Obligations.MoreStepsConsumeBytes := by
  intro k
  induction k with
  | zero =>
    intro s t _ hp h
    cases h
    exact ⟨le_rfl, hp⟩
  | succ k ih =>
    intro s t hb hp h
    obtain ⟨u, hu⟩ := exists_step_next hb
    rw [moreSteps_succ hu] at h
    split_ifs at h with hm
    obtain ⟨hub, hlen, hlt, hle⟩ := step_more hu hm
    obtain ⟨hge, hle'⟩ := ih u t hub (by rwa [hlen]) h
    rw [hlen] at hle'
    exact ⟨by omega, hle'⟩

/-- One MORE STEP before a run that ends is a run that ends. -/
theorem plays_succ {k : Nat} {s t u : State} (h : step s = .next t) (hm : t.result = .more)
    (hplay : playsToEnd k t u ∨ playsToFault k t u) :
    playsToEnd (k + 1) s u ∨ playsToFault (k + 1) s u := by
  have hmore : moreSteps (k + 1) s = moreSteps k t := by rw [moreSteps_succ h, if_pos hm]
  unfold playsToEnd playsToFault at *
  rwa [hmore]

/-- Settles O22, by induction on the bytes that remain: a STEP that returns MORE leaves fewer. -/
theorem playbackEnds : Obligations.PlaybackEnds := by
  intro s hb hp
  generalize hn : s.assetLen.toNat - s.pos.toNat = n
  induction n using Nat.strong_induction_on generalizing s with
  | _ n ih =>
    obtain ⟨t, ht⟩ := exists_step_next hb
    cases hr : t.result with
    | ended => exact ⟨0, t, Nat.zero_le _, .inl ⟨s, rfl, ht, hr⟩⟩
    | fault => exact ⟨0, t, Nat.zero_le _, .inr ⟨s, rfl, ht, hr⟩⟩
    | more =>
      obtain ⟨htb, hlen, hlt, hle⟩ := step_more ht hr
      obtain ⟨k, u, hk, hplay⟩ :=
        ih (t.assetLen.toNat - t.pos.toNat) (by rw [hlen]; omega) t htb (by rwa [hlen]) rfl
      rw [hlen] at hk
      exact ⟨k + 1, u, by omega, plays_succ ht hr hplay⟩

end Sys2Proof.Machine

/-!
PROOF. The frame of the frame records and of a STEP that enters the fault state (44_frame_decode.md
R86 to R89, 60_exceptions.md R92), and the scratch buffer, which no STEP lets show (10_state.md
R21).
-/

namespace Sys2Proof.Machine

/-! The frame of FULL and DELTA, completed or faulted (R86, R87). -/

/-- A frame record writes `pos`, the spaces and the working values, and the fault registers only if
it faults. -/
theorem frameRecord_registers {s t : State} (hf : s.faulted = false)
    (h : t = { s with pos := t.pos, scratch := t.scratch, fb := t.fb, work := t.work } ∨
      RecordFaulted s t) :
    t = { s with
        pos := t.pos, scratch := t.scratch, fb := t.fb, work := t.work,
        faulted := t.faulted, cause := t.cause, lastMore := t.lastMore, busy := t.busy } ∧
    (t.faulted = false → t.cause = s.cause ∧ t.lastMore = s.lastMore ∧ t.busy = s.busy) ∧
    (t.faulted = true → t.cause ≠ .none ∧ t.lastMore = false ∧ t.busy = false) := by
  obtain ht | ⟨hcause, ht⟩ := h
  · have htf : t.faulted = false := by rw [ht, hf]
    refine ⟨by rw [ht], fun _ => by rw [ht]; exact ⟨rfl, rfl, rfl⟩, fun htf' => ?_⟩
    rw [htf] at htf'
    cases htf'
  · have htf : t.faulted = true := by rw [ht]
    refine ⟨by rw [ht], fun htf' => ?_, fun _ => ⟨hcause, ?_⟩⟩
    · rw [htf] at htf'
      cases htf'
    · rw [ht]
      exact ⟨rfl, rfl⟩

/-- Settles O48: the shared frame of the frame records, with FULL's target and walk. -/
theorem fullFrame : Obligations.FullFrame := by
  intro s t hf h
  obtain ⟨u, hu, hend, hfb, hscratch, -⟩ := execFull_spec s
  cases hu.symm.trans h
  obtain ⟨heq, hdone, hfault⟩ := frameRecord_registers hf hend
  exact ⟨heq, hdone, hfault, hfb, hscratch⟩

/-- Settles O52: the shared frame of the frame records, with DELTA's target and walk. -/
theorem deltaFrame : Obligations.DeltaFrame := by
  intro s t len hf h
  obtain ⟨u, hu, hend, hfb, hscratch, -⟩ := execDelta_spec len s
  cases hu.symm.trans h
  obtain ⟨heq, hdone, hfault⟩ := frameRecord_registers hf hend
  exact ⟨heq, hdone, hfault, hfb, hscratch⟩

/-! A STEP that enters the fault state (R92). -/

/-- SCRATCH_OVERFLOW is raised before anything is written (R65). -/
theorem inflate_scratchOverflow {n : Nat} {s t : State} (h : inflate n s = .raised t)
    (hc : t.cause = .scratchOverflow) : t.scratch = s.scratch := by
  unfold inflate at h
  split_ifs at h
  · cases h
    rfl
  · obtain hc' | hc' := inflateLoop_raised_cause h <;> cases hc'.symm.trans hc

/-- Where the fault of a frame record arose: a fault in inflate touches no pixel, and the walk
raises BODY_UNDERRUN and FB_BOUNDS only (R88, R89). -/
theorem frameRecord_fault {n : Nat} {s t : State} {walk : State → Res Unit}
    (hw : ∀ u, WalkSpec (fun _ => True) u (walk u)) (hf : s.faulted = false)
    (h : ((inflate n s).bind fun _ u => walk u).outcome = .next t) (ht : t.faulted = true) :
    (t.cause ≠ .bodyUnderrun → t.cause ≠ .fbBounds → t.fb = s.fb) ∧
      (t.cause = .scratchOverflow → t.scratch = s.scratch) := by
  obtain ⟨u, hu, hk, -⟩ | ⟨u, hu, ⟨-, hk⟩, -⟩ := inflate_spec n s
  · rw [hu, Res.bind_ok] at h
    obtain ⟨v, hv, hwk, -⟩ | ⟨v, hv, ⟨hcause, -⟩, -⟩ := hw u <;>
      (rw [hv] at h; obtain rfl : v = t := Host.Outcome.next.inj h)
    · have hvf : v.faulted = s.faulted := by unfold WalkKeeps at hwk; rw [hwk, hk]
      rw [hvf, hf] at ht
      cases ht
    · refine ⟨fun h₁ h₂ => (hcause.elim h₁ h₂).elim, fun hov => ?_⟩
      obtain hc | hc := hcause <;> cases hc.symm.trans hov
  · obtain rfl : u = t := Host.Outcome.next.inj ((frameRecord_raised _ hu).symm.trans h)
    exact ⟨fun _ _ => by rw [hk], inflate_scratchOverflow hu⟩

/-- What a faulting frame record with target `n` leaves of the spaces. -/
def FrameFault (n : Nat) (s t : State) : Prop :=
  (∀ a, (∀ p ∈ s.visited, a ≠ s.mirrorIndex p) → t.fb.read a = s.fb.read a) ∧
  (t.cause ≠ .bodyUnderrun → t.cause ≠ .fbBounds → t.fb = s.fb) ∧
  (∀ a, n ≤ a → t.scratch.read a = s.scratch.read a) ∧
  (t.cause = .scratchOverflow → t.scratch = s.scratch)

theorem execFull_fault {s t : State} (hf : s.faulted = false) (h : exec .full s = .next t)
    (ht : t.faulted = true) : FrameFault s.fullLen s t := by
  obtain ⟨u, hu, -, hfb, hscratch, -⟩ := execFull_spec s
  cases hu.symm.trans h
  obtain ⟨hwalk, hover⟩ :=
    frameRecord_fault (fun u => setPixels_spec _ u fun _ _ => trivial) hf h ht
  exact ⟨hfb, hwalk, hscratch, hover⟩

theorem execDelta_fault {s t : State} {len : Half} (hf : s.faulted = false)
    (h : exec (.delta len) s = .next t) (ht : t.faulted = true) : FrameFault len.toNat s t := by
  obtain ⟨u, hu, -, hfb, hscratch, -⟩ := execDelta_spec len s
  cases hu.symm.trans h
  obtain ⟨hwalk, hover⟩ :=
    frameRecord_fault (fun u => toggleBlocks_spec _ u fun _ _ _ _ => trivial) hf h ht
  exact ⟨hfb, hwalk, hscratch, hover⟩

/-- The other records write neither the framebuffer nor the scratch buffer (R72, R74). -/
theorem exec_quiet {i : Instr} {s t : State} (hrec : i.isRecord = true) (hfull : i ≠ .full)
    (hdelta : ∀ len, i ≠ .delta len) (h : exec i s = .next t) :
    t.fb = s.fb ∧ t.scratch = s.scratch := by
  cases i with
  | init a b c d => cases h; split_ifs <;> exact ⟨rfl, rfl⟩
  | full => exact absurd rfl hfull
  | delta len => exact absurd rfl (hdelta len)
  | nop | illegal04 | illegal08 | illegal10 | illegal20 | illegal40 | illegal80 =>
    cases h
    exact ⟨rfl, rfl⟩
  | lit | run => cases hrec

/-- The length of a DELTA at the cursor, read low byte first (R28, R46). -/
theorem toNat_len_of_ahead {s : State} {len : Half} {rest : List Byte}
    (ha : s.ahead = encode (.delta len) ++ rest) :
    (s.assetByte (s.pos.toNat + 1)).toNat + 256 * (s.assetByte (s.pos.toNat + 2)).toNat =
      len.toNat := by
  have hlen := s.length_ahead
  have hget := s.getElem?_ahead
  rw [ha] at hlen hget
  simp only [encode, List.length_append, List.length_cons] at hlen
  have h1 := hget 1
  have h2 := hget 2
  rw [if_pos (by omega)] at h1 h2
  simp only [encode, List.cons_append, List.getElem?_cons_zero, List.getElem?_cons_succ,
    Option.some.injEq] at h1 h2
  rw [← h1, ← h2, ← toNat_u16le, u16le_lowByte_highByte]

/-- A STEP that enters the fault state leaves both spaces alone, unless its record is a FULL or a
DELTA. -/
theorem step_fault_kinds {s t : State} (h : step s = .next t) (hf : s.faulted = false)
    (ht : t.faulted = true) :
    (t.fb = s.fb ∧ t.scratch = s.scratch) ∨
    (s.assetByte s.pos.toNat = 0x01 ∧ FrameFault s.fullLen s t) ∨
    (s.assetByte s.pos.toNat = 0x03 ∧ FrameFault
      ((s.assetByte (s.pos.toNat + 1)).toNat + 256 * (s.assetByte (s.pos.toNat + 2)).toNat)
      s t) := by
  obtain ⟨-, hs⟩ | ⟨-, hf', -⟩ | ⟨-, -, -, hs⟩ | ⟨-, -, u, hs, hcut⟩ |
    ⟨-, -, i, rest, -, -, hrec, ha, u, hexec, -, -, hs⟩ := step_cases s
  · cases hs.symm.trans h
  · rw [hf] at hf'; cases hf'
  · cases hs.symm.trans h
    exact .inl ⟨rfl, rfl⟩
  · cases hs.symm.trans h
    obtain ⟨rfl, -⟩ | ⟨rfl, -⟩ := hcut <;> exact .inl ⟨rfl, rfl⟩
  · have huf : u.faulted = true := by
      cases hu : u.faulted
      · cases hs.symm.trans h
        simp [hu] at ht
      · rfl
    rw [if_pos huf] at hs
    cases hs.symm.trans h
    have hf' : (s.atRecord i).faulted = false := hf
    obtain ⟨-, hop⟩ := State.assetByte_of_ahead_encode ha
    by_cases hfull : i = .full
    · subst hfull
      exact .inr (.inl ⟨hop, execFull_fault (s := s.atRecord .full) hf' hexec huf⟩)
    · by_cases hdelta : ∃ len, i = .delta len
      · obtain ⟨len, rfl⟩ := hdelta
        rw [toNat_len_of_ahead ha]
        exact .inr (.inr ⟨hop, execDelta_fault (s := s.atRecord (.delta len)) hf' hexec huf⟩)
      · exact .inl (exec_quiet (s := s.atRecord i) hrec hfull (by simpa using hdelta) hexec)

/-- Settles O14: the registers are those of every faulting STEP, and the spaces change in a FULL
or a DELTA only. -/
theorem faultingStepFrame : Obligations.FaultingStepFrame := by
  intro s t _ hf h ht
  obtain ⟨-, ⟨hf', -⟩ | ⟨-, -, rfl⟩ | ⟨-, -, hrec⟩⟩ := step_next_kinds h
  · rw [hf] at hf'; cases hf'
  · exact absurd (ht.symm.trans hf) nofun
  · obtain ⟨hcause, heq⟩ | hmore := hrec.ends
    · refine ⟨hcause, heq, ⟨hrec.pos_lt, hrec.pos_le⟩, ?_⟩
      obtain ⟨hfb, hscratch⟩ | ⟨hop, hfb, hwalk, hscratch, hover⟩ |
        ⟨hop, hfb, hwalk, hscratch, hover⟩ := step_fault_kinds h hf ht
      · simp [hfb, hscratch]
      · exact ⟨hfb, hwalk, fun h₁ => absurd hop h₁, fun _ => hscratch, by simp [hop], hover⟩
      · exact ⟨hfb, hwalk, fun _ h₃ => absurd hop h₃, by simp [hop], fun _ => hscratch, hover⟩
    · have htf : t.faulted = s.faulted := by unfold StepMore at hmore; rw [hmore]
      rw [htf, hf] at ht
      cases ht

/-! The scratch buffer is unobservable (R21). -/

/-- The scratch buffer replaced. -/
def State.withScratch (m : Mem) (s : State) : State := { s with scratch := m }

/-- The scratch buffer replaced in the state an operation leaves. -/
def Res.withScratch {α : Type} (m : Mem) : Res α → Res α
  | .ok a s => .ok a (s.withScratch m)
  | .raised s => .raised (s.withScratch m)

/-- The bytes of the body in progress are the same in `m`. -/
def ScratchAgree (m : Mem) (s : State) : Prop :=
  ∀ a, a < s.work.bodyLen → m.read a = s.scratch.read a

theorem ScratchAgree.of_walkKeeps {m : Mem} {s t : State} (h : ScratchAgree m s)
    (hk : WalkKeeps s t) : ScratchAgree m t := by
  unfold WalkKeeps at hk
  rw [hk]
  exact h

/-- A sequence commutes with a replaced scratch buffer when its parts do. -/
theorem Res.bind_withScratch {α β : Type} {m : Mem} {r r' : Res α} {f : α → State → Res β}
    (hr : r' = r.withScratch m)
    (hf : ∀ a t, r = .ok a t → f a (t.withScratch m) = (f a t).withScratch m) :
    r'.bind f = (r.bind f).withScratch m := by
  subst hr
  cases r with
  | ok a t => exact hf a t rfl
  | raised t => rfl

theorem State.ahead_withScratch (m : Mem) (s : State) : (s.withScratch m).ahead = s.ahead :=
  State.ahead_congr rfl rfl rfl

theorem readU8_withScratch (m : Mem) (s : State) :
    readU8 (s.withScratch m) = (readU8 s).withScratch m := by
  have hend : (s.withScratch m).atEnd = s.atEnd := rfl
  rw [readU8, readU8, hend]
  split_ifs <;> rfl

theorem peekU8_withScratch (m : Mem) (s : State) :
    peekU8 (s.withScratch m) = (peekU8 s).withScratch m := by
  have hend : (s.withScratch m).atEnd = s.atEnd := rfl
  rw [peekU8, peekU8, hend]
  split_ifs <;> rfl

/-- Whatever a token's bytes are, their fetch does not read the scratch buffer. -/
theorem fetchToken_withScratch (m : Mem) (s : State) :
    fetchToken (s.withScratch m) = (fetchToken s).withScratch m := by
  refine Res.bind_withScratch (readU8_withScratch m s) fun b t _ => ?_
  show (if t.atEnd then _ else _) = Res.withScratch m (if t.atEnd then _ else _)
  split_ifs with hend
  · rfl
  · refine Res.bind_withScratch (peekU8_withScratch m t) fun c u _ => ?_
    split_ifs
    · exact Res.bind_withScratch (readU8_withScratch m (u.advance 1)) fun n v _ => rfl
    · rfl

/-- The loop of inflate does the same over another scratch buffer that agrees on the bytes produced
so far, and so do the bytes it produces. -/
theorem inflateLoop_withScratch (k : Nat) {m : Mem} {s : State}
    (h : ∀ a, a < s.work.out → m.read a = s.scratch.read a) :
    ∃ m', inflateLoop k (s.withScratch m) = (inflateLoop k s).withScratch m' ∧
      ∀ t, inflateLoop k s = .ok () t → ∀ a, a < t.work.out → m'.read a = t.scratch.read a := by
  induction k generalizing m s with
  | zero =>
    refine ⟨m, rfl, fun t ht => ?_⟩
    cases ht
    exact h
  | succ k ih =>
    have hat : (s.withScratch m).atToken = s.atToken := rfl
    simp only [inflateLoop, hat, fetchToken_withScratch]
    split_ifs with hbody
    · simp only [State.atToken, decide_eq_true_eq] at hbody
      obtain ⟨n, -, ⟨tok, hf⟩ | hf⟩ := fetchToken_frame s
      · rw [hf]
        obtain ⟨hfits, -⟩ | ⟨hgt, he⟩ := emitToken_cases (s := s.advance n) tok hbody
        · have hfits' : ((s.advance n).withScratch m).work.out + tok.expand.length ≤
            ((s.advance n).withScratch m).work.bodyLen := hfits
          simp only [Res.withScratch, Res.bind_ok, emitToken_fits tok hfits,
            emitToken_fits tok hfits']
          refine ih (m := m.fill s.work.out tok.expand.length (Token.byte tok))
            (s := (s.advance n).emit tok.expand.length (Token.byte tok)) fun a ha => ?_
          simp only [State.emit_work, State.advance_work] at ha
          simp only [State.emit_scratch, State.advance_scratch, State.advance_work, Mem.read_fill]
          split_ifs
          · rfl
          · exact h a (by omega)
        · have he' : emitToken tok ((s.advance n).withScratch m) =
              .raised (((s.advance n).raise .runOverrun).withScratch m) := by
            obtain ⟨hle, -⟩ | ⟨-, he'⟩ :=
              emitToken_cases (s := (s.advance n).withScratch m) tok hbody
            · exact absurd hle (Nat.not_le.mpr hgt)
            · exact he'
          simp only [Res.withScratch, Res.bind_ok, he, he', Res.bind_raised]
          exact ⟨m, rfl, fun _ h => nomatch h⟩
      · rw [hf]
        exact ⟨m, rfl, fun _ h => nomatch h⟩
    · refine ⟨m, rfl, fun t ht => ?_⟩
      cases ht
      exact h

/-- Inflate does the same over any scratch buffer, and the body it leaves is the same (R60). -/
theorem inflate_withScratch (n : Nat) (m : Mem) (s : State) :
    ∃ m', inflate n (s.withScratch m) = (inflate n s).withScratch m' ∧
      ∀ t, inflate n s = .ok () t → ScratchAgree m' t := by
  by_cases hcap : s.cfg.scratchBytes < n
  · rw [inflate_overflow hcap, inflate_overflow (s := s.withScratch m) hcap]
    exact ⟨m, rfl, fun _ h => nomatch h⟩
  · obtain ⟨m', hm', hagree⟩ := inflateLoop_withScratch n (m := m) (s := s.startBody n) nofun
    have hloop : inflate n s = inflateLoop n (s.startBody n) := if_neg hcap
    refine ⟨m', ?_, fun t ht => ?_⟩
    · rw [hloop, ← hm']
      exact if_neg hcap
    · obtain ⟨toks, -, hlen, -, htoks⟩ := inflate_eq_ok ht
      have hout : t.work.bodyLen = t.work.out := by
        rw [htoks, foldl_takeToken]
        simpa using hlen.symm
      intro a ha
      exact hagree t (hloop ▸ ht) a (hout ▸ ha)

theorem bodyBit_withScratch {m : Mem} {s : State} (h : ScratchAgree m s) :
    bodyBit (s.withScratch m) = (bodyBit s).withScratch m := by
  rw [bodyBit_eq, bodyBit_eq]
  show (if 8 * s.work.bodyLen ≤ s.work.idx then _ else _) = _
  split_ifs with hidx
  · rfl
  · have hbit : (s.withScratch m).scratchBit s.work.idx = s.scratchBit s.work.idx :=
      congrArg (BitVec.getLsbD · _) (h (s.work.idx / 8) (by omega))
    exact congrArg (Res.ok · _) hbit

theorem bodyBit_keeps {s t : State} {b : Bool} (h : bodyBit s = .ok b t) : WalkKeeps s t := by
  rw [bodyBit_eq] at h
  split_ifs at h
  cases h
  rfl

theorem fbSet_withScratch (m : Mem) (x y : Nat) (v : Bool) (s : State) :
    fbSet x y v (s.withScratch m) = (fbSet x y v s).withScratch m := by
  have hin : (s.withScratch m).inGrid x y = s.inGrid x y := rfl
  rw [fbSet_eq, fbSet_eq, hin]
  split_ifs <;> rfl

theorem fbInvert_withScratch (m : Mem) (x y : Nat) (s : State) :
    fbInvert x y (s.withScratch m) = (fbInvert x y s).withScratch m := by
  have hin : (s.withScratch m).inGrid x y = s.inGrid x y := rfl
  rw [fbInvert_eq, fbInvert_eq, hin]
  split_ifs <;> rfl

theorem WalkSpec.keeps_of_ok {S : Nat → Prop} {s t : State} {r : Res Unit} (h : WalkSpec S s r)
    (hr : r = .ok () t) : WalkKeeps s t := by
  subst hr
  obtain ⟨u, hu, hk, -⟩ | ⟨u, hu, -⟩ := h <;> cases hu
  exact hk

/-- FULL's walk reads only the body. -/
theorem setPixels_withScratch (ps : List (Nat × Nat)) {m : Mem} {s : State}
    (h : ScratchAgree m s) : setPixels ps (s.withScratch m) = (setPixels ps s).withScratch m := by
  induction ps generalizing s with
  | nil => rfl
  | cons p ps ih =>
    refine Res.bind_withScratch (bodyBit_withScratch h) fun b t ht => ?_
    have ht' := h.of_walkKeeps (bodyBit_keeps ht)
    refine Res.bind_withScratch (fbSet_withScratch m _ _ _ t) fun _ u hu => ih ?_
    rw [fbSet_eq] at hu
    exact ht'.of_walkKeeps ((WalkSpec.put (S := fun _ => True) _ trivial).keeps_of_ok hu)

/-- One pixel of a dirty block. -/
theorem toggleFlagged_withScratch (m : Mem) (d : Bool) (x y : Nat) (s : State) :
    (if d then fbInvert x y (s.withScratch m) else .ok () (s.withScratch m)) =
      (if d then fbInvert x y s else .ok () s).withScratch m := by
  cases d
  · rfl
  · exact fbInvert_withScratch m x y s

theorem toggleFlagged_keeps {d : Bool} {x y : Nat} {s t : State}
    (h : (if d then fbInvert x y s else .ok () s) = .ok () t) : WalkKeeps s t := by
  cases d
  · cases h
    rfl
  · rw [fbInvert_eq] at h
    exact (WalkSpec.put (S := fun _ => True) _ trivial).keeps_of_ok h

/-- The walk over a dirty block reads only the body. -/
theorem togglePixels_withScratch (ps : List (Nat × Nat)) {m : Mem} {s : State}
    (h : ScratchAgree m s) :
    togglePixels ps (s.withScratch m) = (togglePixels ps s).withScratch m := by
  induction ps generalizing s with
  | nil => rfl
  | cons p ps ih =>
    refine Res.bind_withScratch (bodyBit_withScratch h) fun d t ht => ?_
    have ht' := h.of_walkKeeps (bodyBit_keeps ht)
    exact Res.bind_withScratch (toggleFlagged_withScratch m d _ _ t) fun _ u hu =>
      ih (ht'.of_walkKeeps (toggleFlagged_keeps hu))

/-- DELTA's walk reads only the body. -/
theorem toggleBlocks_withScratch (bs : List (Nat × Nat)) {m : Mem} {s : State}
    (h : ScratchAgree m s) :
    toggleBlocks bs (s.withScratch m) = (toggleBlocks bs s).withScratch m := by
  induction bs generalizing s with
  | nil => rfl
  | cons b bs ih =>
    refine Res.bind_withScratch (bodyBit_withScratch h) fun d t ht => ?_
    have ht' := h.of_walkKeeps (bodyBit_keeps ht)
    cases d with
    | false => exact ih ht'
    | true =>
      refine Res.bind_withScratch (togglePixels_withScratch (t.blockPixels b) ht') fun _ u hu =>
        ih (ht'.of_walkKeeps ?_)
      exact (togglePixels_spec (S := fun _ => True) _ t fun _ _ => trivial).keeps_of_ok hu

/-- A frame record whose walk reads only the body does the same over any scratch buffer. -/
theorem frameRecord_withScratch {n : Nat} {s t : State} {walk : State → Res Unit}
    (hw : ∀ (u : State) (m : Mem), ScratchAgree m u →
      walk (u.withScratch m) = (walk u).withScratch m) (m : Mem)
    (h : ((inflate n s).bind fun _ u => walk u).outcome = .next t) :
    ∃ m', ((inflate n (s.withScratch m)).bind fun _ u => walk u).outcome =
      .next (t.withScratch m') := by
  obtain ⟨m', hm', hagree⟩ := inflate_withScratch n m s
  refine ⟨m', ?_⟩
  rw [Res.bind_withScratch hm' fun _ u hu => hw u m' (hagree u hu)]
  cases h
  cases (inflate n s).bind fun _ u => walk u <;> rfl

/-- Every record does the same over any scratch buffer. -/
theorem exec_withScratch {i : Instr} {s t : State} (hrec : i.isRecord = true) (m : Mem)
    (h : exec i s = .next t) : ∃ m', exec i (s.withScratch m) = .next (t.withScratch m') := by
  cases i with
  | init a b c d =>
    by_cases hz : a = 0 ∨ b = 0
    · cases (exec_init_zero hz c d s).symm.trans h
      exact ⟨m, exec_init_zero hz c d _⟩
    · obtain ⟨ha, hb⟩ := not_or.mp hz
      cases (exec_init_ready ha hb c d s).symm.trans h
      exact ⟨m, exec_init_ready ha hb c d _⟩
  | full =>
    exact frameRecord_withScratch (walk := fun u => setPixels u.visited u)
      (fun u m hm => setPixels_withScratch u.visited hm) m h
  | delta len =>
    exact frameRecord_withScratch (walk := fun u => toggleBlocks u.blocks u)
      (fun u m hm => toggleBlocks_withScratch u.blocks hm) m h
  | nop | illegal04 | illegal08 | illegal10 | illegal20 | illegal40 | illegal80 =>
    cases h
    exact ⟨m, rfl⟩
  | lit | run => cases hrec

/-- The tail of STEP does not look at the scratch buffer. -/
theorem finishStep_withScratch {s t : State} (m : Mem) (h : finishStep (.next s) = .next t) :
    finishStep (.next (s.withScratch m)) = .next (t.withScratch m) := by
  cases h
  have hf : (s.withScratch m).faulted = s.faulted := rfl
  rw [finishStep, hf]
  split_ifs <;> rfl

/-- Settles O55: the head of a STEP reads the asset and registers only, a record does the same over
any scratch buffer, and so does the tail. -/
theorem scratchIsUnobservable : Obligations.ScratchIsUnobservable := by
  intro s t m h
  show ∃ m', step (s.withScratch m) = .next (t.withScratch m')
  have hahead : (s.withScratch m).ahead = s.ahead := s.ahead_withScratch m
  obtain ⟨hb, ⟨hf, rfl⟩ | ⟨hf, hend, rfl⟩ | ⟨hf, hlt, -⟩⟩ := step_next_kinds h
  · exact ⟨m, step_of_faulted (s := t.withScratch m) hb hf⟩
  · exact ⟨m, step_of_end (s := s.withScratch m) hb hf hend⟩
  · cases hd : decode s.ahead with
    | instr i rest =>
      rw [step_of_decode hb hf hd] at h
      obtain ⟨-, hrec, -⟩ := fetchRecord_instr hd
      obtain ⟨u, hu, -⟩ := exec_record hrec (s.atRecord i)
      obtain ⟨m', hm'⟩ := exec_withScratch hrec m hu
      rw [hu] at h
      refine ⟨m', ?_⟩
      rw [step_of_decode (s := s.withScratch m) hb hf (hahead ▸ hd)]
      exact (congrArg finishStep hm').trans (finishStep_withScratch m' h)
    | rejected e =>
      obtain ⟨-, hnil⟩ | ⟨rfl, -⟩ | ⟨rfl, -⟩ := fetchRecord_rejected hd
      · exact absurd (State.ahead_eq_nil.mp hnil) (Nat.not_le.mpr hlt)
      · cases (step_of_initCutShort hb hf hd).symm.trans h
        refine ⟨m, ?_⟩
        rw [step_of_initCutShort (s := s.withScratch m) hb hf (hahead ▸ hd), hahead]
        rfl
      · cases (step_of_deltaCutShort hb hf hd).symm.trans h
        exact ⟨m, step_of_deltaCutShort (s := s.withScratch m) hb hf (hahead ▸ hd)⟩

end Sys2Proof.Machine

/-!
PROOF. The assembler's tokens (30_encoding.md R53, R54): `BYTES` expands to its bytes, and the
tokens emitted for a body are read back from their bytes.
-/

namespace Sys2Proof.Machine

/-! What the pieces of `BYTES` expand to (R54). -/

theorem expandTokens_append (us ts : List Token) :
    expandTokens (us ++ ts) = expandTokens us ++ expandTokens ts := by
  induction us with
  | nil => rfl
  | cons u us ih => simp [expandTokens, ih]

theorem expand_repToken (b : Byte) {c : Nat} (h₁ : 1 ≤ c) (h₂ : c ≤ 256) :
    (repToken b c).expand = List.replicate c b := by
  have hn : 1 + (c - 1) % 256 = c := by omega
  simp [repToken, Token.expand, hn]

theorem expandTokens_replicate_repToken (v : Byte) (k : Nat) :
    expandTokens (List.replicate k (repToken v 256)) = List.replicate (256 * k) v := by
  induction k with
  | zero => rfl
  | succ k ih =>
    rw [List.replicate_succ, expandTokens, ih, expand_repToken v (by omega) le_rfl,
      ← List.replicate_add, Nat.mul_succ, Nat.add_comm]

/-- The pieces of a group expand to its copies, whatever byte follows. -/
theorem expandTokens_groupTokens (v : Byte) (c : Nat) (next : Option Byte) :
    expandTokens (groupTokens v c next) = List.replicate c v := by
  have hone : ∀ t : Token, expandTokens [t] = t.expand := fun t => by simp [expandTokens]
  have hrest : expandTokens
      (if c % 256 = 0 then []
        else if c % 256 = 1 then (if next = some v then [repToken v 1] else [.lit v])
        else [repToken v (c % 256)]) = List.replicate (c % 256) v := by
    split_ifs with h0 h1 hnext
    · rw [h0]
      rfl
    · rw [hone, expand_repToken v le_rfl (by omega), h1]
    · rw [hone, h1]
      rfl
    · exact (hone _).trans (expand_repToken v (by omega) (by omega))
  rw [groupTokens, expandTokens_append, expandTokens_replicate_repToken, hrest,
    ← List.replicate_add, Nat.div_add_mod]

theorem expandTokens_bytesTokens (g : List (Byte × Nat)) (next : Option Byte) :
    expandTokens (bytesTokens g next) = g.flatMap fun e => List.replicate e.2 e.1 := by
  induction g with
  | nil => rfl
  | cons e g ih =>
    rw [bytesTokens, expandTokens_append, expandTokens_groupTokens, ih, List.flatMap_cons]

theorem flatMap_groupEqual (vs : List Byte) :
    ((groupEqual vs).flatMap fun e => List.replicate e.2 e.1) = vs := by
  induction vs with
  | nil => rfl
  | cons v vs ih =>
    rw [groupEqual]
    split
    next h => rw [h] at ih; simp [← ih]
    next w c g h =>
      rw [h] at ih
      split_ifs with hw
      · simp [← ih, hw, List.replicate_succ]
      · simp [← ih]

/-- Settles O60: the groups of equal bytes make up the sequence, and each group's pieces expand to
its copies. -/
theorem bytesPseudoTokenExpands : Obligations.BytesPseudoTokenExpands := fun vs next =>
  (expandTokens_bytesTokens _ next).trans (flatMap_groupEqual vs)

/-! A literal's successor differs from it (R53, R66). -/

/-- Every literal differs from the byte emitted after it, `next` being the byte after them all. -/
def LitsDiffer : List Token → Option Byte → Prop
  | [], _ => True
  | .lit b :: ts, next => firstByte ts next ≠ some b ∧ LitsDiffer ts next
  | .run _ _ :: ts, next => LitsDiffer ts next

theorem encodeTokens_append (us ts : List Token) :
    encodeTokens (us ++ ts) = encodeTokens us ++ encodeTokens ts := by
  induction us with
  | nil => rfl
  | cons u us ih => simp [encodeTokens, ih]

theorem firstByte_append (us ts : List Token) (next : Option Byte) :
    firstByte (us ++ ts) next = firstByte us (firstByte ts next) := by
  simp [firstByte, encodeTokens_append, Option.or_assoc]

theorem LitsDiffer.append {us ts : List Token} {next : Option Byte}
    (hus : LitsDiffer us (firstByte ts next)) (hts : LitsDiffer ts next) :
    LitsDiffer (us ++ ts) next := by
  induction us with
  | nil => exact hts
  | cons u us ih =>
    cases u with
    | lit b => exact ⟨firstByte_append us ts next ▸ hus.1, ih hus.2⟩
    | run b n => exact ih hus

theorem LitsDiffer.replicate_repToken (v : Byte) (c k : Nat) (next : Option Byte) :
    LitsDiffer (List.replicate k (repToken v c)) next := by
  induction k with
  | zero => trivial
  | succ k ih => exact ih

/-- A group's only literal is emitted where the byte after it differs. -/
theorem litsDiffer_groupTokens (v : Byte) (c : Nat) (next : Option Byte) :
    LitsDiffer (groupTokens v c next) next := by
  refine LitsDiffer.append (LitsDiffer.replicate_repToken v 256 _ _) ?_
  split_ifs with h0 h1 hnext
  · trivial
  · exact LitsDiffer.replicate_repToken v 1 1 next
  · exact ⟨hnext, trivial⟩
  · exact LitsDiffer.replicate_repToken v (c % 256) 1 next

theorem litsDiffer_bytesTokens (g : List (Byte × Nat)) (next : Option Byte) :
    LitsDiffer (bytesTokens g next) next := by
  induction g with
  | nil => trivial
  | cons e g ih => exact (litsDiffer_groupTokens _ _ _).append ih

theorem AsmRes.bind_eq_ok {α β : Type} {r : AsmRes α} {f : α → AsmRes β} {b : β} :
    r.bind f = .ok b ↔ ∃ a, r = .ok a ∧ f a = .ok b := by
  cases r <;> simp [AsmRes.bind]

/-- A written token whose literal would repeat in the next byte is refused (R53). -/
theorem litsDiffer_asmToken {t : AsmToken} {next : Option Byte} {us : List Token}
    (h : asmToken t next = .ok us) : LitsDiffer us next := by
  cases t with
  | lit b =>
    obtain ⟨b', -, h⟩ := AsmRes.bind_eq_ok.mp h
    split_ifs at h with hnext
    cases h
    exact ⟨hnext, trivial⟩
  | run b n =>
    obtain ⟨b', -, h⟩ := AsmRes.bind_eq_ok.mp h
    obtain ⟨n', -, h⟩ := AsmRes.bind_eq_ok.mp h
    cases h
    trivial
  | rep b c =>
    simp only [asmToken] at h
    split_ifs at h
    obtain ⟨b', -, h⟩ := AsmRes.bind_eq_ok.mp h
    cases h
    trivial
  | bytes vs =>
    obtain ⟨vs', -, h⟩ := AsmRes.bind_eq_ok.mp h
    cases h
    exact litsDiffer_bytesTokens _ next

theorem litsDiffer_asmTokens {ts : List AsmToken} {next : Option Byte} {us : List Token}
    (h : asmTokens ts next = .ok us) : LitsDiffer us next := by
  induction ts generalizing us with
  | nil =>
    cases h
    trivial
  | cons t ts ih =>
    obtain ⟨ws, hws, h⟩ := AsmRes.bind_eq_ok.mp h
    obtain ⟨vs, hvs, h⟩ := AsmRes.bind_eq_ok.mp h
    cases h
    exact (litsDiffer_asmToken hvs).append (ih hws)

/-! Reading the emitted bytes back (R47). -/

/-- The bytes `bs` stand in the asset from `a` up, followed by `next`, or by the end of the
asset. -/
structure EmittedAt (s : State) (a : Nat) (bs : List Byte) (next : Option Byte) : Prop where
  le : a + bs.length ≤ s.assetLen.toNat
  bytes : ∀ k b, bs[k]? = some b → s.assetByte (a + k) = b
  after : ∀ b, next = some b → s.assetByte (a + bs.length) = b
  ends : next = none → s.assetLen.toNat = a + bs.length

theorem EmittedAt.drop {s : State} {a : Nat} {bs bs' : List Byte} {next : Option Byte}
    (h : EmittedAt s a (bs ++ bs') next) : EmittedAt s (a + bs.length) bs' next := by
  obtain ⟨hle, hbytes, hafter, hends⟩ := h
  rw [List.length_append, ← Nat.add_assoc] at hle hafter hends
  refine ⟨hle, fun k b hk => ?_, hafter, hends⟩
  rw [Nat.add_assoc]
  exact hbytes _ b (by rwa [List.getElem?_append_right (by omega), Nat.add_sub_cancel_left])

/-- The byte at `a` is the first emitted one, and there is none only at the end of the asset. -/
theorem EmittedAt.firstByte {s : State} {a : Nat} {us : List Token} {next : Option Byte}
    (h : EmittedAt s a (encodeTokens us) next) :
    (∀ b, firstByte us next = some b → s.assetByte a = b) ∧
      (firstByte us next = none → s.assetLen.toNat ≤ a) := by
  unfold Sys2Proof.Machine.firstByte
  cases hbs : encodeTokens us with
  | nil =>
    rw [hbs] at h
    exact ⟨h.after, fun hnone => (h.ends hnone).le⟩
  | cons c bs =>
    rw [hbs] at h
    exact ⟨fun b hb => h.bytes 0 b hb, nofun⟩

/-- Emitted tokens whose literals differ from the bytes after them are tokens of the asset. -/
theorem tokensAt_of_emitted {s : State} {a : Nat} {us : List Token} {next : Option Byte}
    (hlits : LitsDiffer us next) (h : EmittedAt s a (encodeTokens us) next) :
    tokensAt s a us = true := by
  induction us generalizing a with
  | nil => rfl
  | cons t ts ih =>
    have hrest : EmittedAt s (a + (encode t.instr).length) (encodeTokens ts) next := h.drop
    have hle := hrest.le
    cases t with
    | lit b =>
      obtain ⟨hne, hlits⟩ := hlits
      obtain ⟨hsome, hnone⟩ := hrest.firstByte
      simp only [Token.instr, encode, List.length_singleton] at hle hsome hnone
      have hnext : s.assetLen.toNat ≤ a + 1 ∨ s.assetByte (a + 1) ≠ b := by
        cases hfirst : firstByte ts next with
        | none => exact .inl (hnone hfirst)
        | some c =>
          rw [hsome c hfirst]
          exact .inr fun hc => hne (hc ▸ hfirst)
      simp only [tokensAt, Bool.and_eq_true, Bool.or_eq_true, decide_eq_true_eq, beq_iff_eq,
        bne_iff_ne]
      exact ⟨⟨⟨by omega, h.bytes 0 b rfl⟩, hnext⟩, ih hlits hrest⟩
    | run b n =>
      simp only [Token.instr, encode, List.length_cons, List.length_nil] at hle
      simp only [tokensAt, Bool.and_eq_true, decide_eq_true_eq, beq_iff_eq]
      exact ⟨⟨⟨⟨by omega, h.bytes 0 b rfl⟩, h.bytes 1 b rfl⟩, h.bytes 2 n rfl⟩, ih hlits hrest⟩

/-- Settles O59: the assembler emits no literal that repeats in the byte after it, so its tokens are
those the bytes are read as. -/
theorem assembledBodyReadsBack : Obligations.AssembledBodyReadsBack :=
  fun _ _ _ _ _ hus hle hbytes hafter hends =>
    tokensAt_of_emitted (litsDiffer_asmTokens hus) ⟨hle, hbytes, hafter, hends⟩

end Sys2Proof.Machine

/-!
PROOF. The traversal of the frame records (44_frame_decode.md R83, R84): its order, and that it
visits each pixel of the block grid once.
-/

namespace Sys2Proof.Machine

/-! Rows of one length, one after another. -/

theorem length_flatMap_uniform {α β : Type} {l : List α} {f : α → List β} {n : Nat}
    (hn : ∀ a, (f a).length = n) : (l.flatMap f).length = l.length * n := by
  induction l with
  | nil => simp
  | cons a l ih => rw [List.flatMap_cons, List.length_append, ih, hn, List.length_cons]; ring

/-- Place `j` of row `i`, when every row has `n` places. -/
theorem getElem?_flatMap_uniform {α β : Type} {l : List α} {f : α → List β} {n : Nat}
    (hn : ∀ a, (f a).length = n) (i : Nat) {j : Nat} (hj : j < n) :
    (l.flatMap f)[i * n + j]? = l[i]?.bind fun a => (f a)[j]? := by
  induction l generalizing i with
  | nil => simp
  | cons a l ih =>
    rw [List.flatMap_cons]
    cases i with
    | zero =>
      rw [Nat.zero_mul, Nat.zero_add, List.getElem?_append_left (by rwa [hn])]
      rfl
    | succ i =>
      have hsub : (i + 1) * n + j - (f a).length = i * n + j := by rw [hn, Nat.succ_mul]; omega
      rw [List.getElem?_append_right (by rw [hn, Nat.succ_mul]; omega), hsub, ih]
      rfl

/-! The order of the traversal (R83). -/

/-- The cells of a grid row by row. -/
theorem getElem?_rows {α : Type} (f : Nat → Nat → α) {rows cols x y : Nat} (hx : x < cols)
    (hy : y < rows) :
    ((List.range rows).flatMap fun j => (List.range cols).map (f j))[y * cols + x]? =
      some (f y x) := by
  rw [getElem?_flatMap_uniform (by simp) y hx]
  simp [hx, hy]

theorem State.getElem?_blocks {s : State} {bx by_ : Nat} (hx : bx < s.xb.toNat)
    (hy : by_ < s.yb.toNat) : s.blocks[by_ * s.xb.toNat + bx]? = some (bx, by_) :=
  getElem?_rows (fun j i => (i, j)) hx hy

theorem State.getElem?_blockPixels {s : State} (b : Nat × Nat) {px py : Nat}
    (hx : px < s.bw.toNat) (hy : py < s.bh.toNat) :
    (s.blockPixels b)[py * s.bw.toNat + px]? =
      some (b.1 * s.bw.toNat + px, b.2 * s.bh.toNat + py) :=
  getElem?_rows (fun j i => (b.1 * s.bw.toNat + i, b.2 * s.bh.toNat + j)) hx hy

theorem State.length_blocks (s : State) : s.blocks.length = s.yb.toNat * s.xb.toNat := by
  rw [State.blocks, length_flatMap_uniform (n := s.xb.toNat) (by simp), List.length_range]

theorem State.length_blockPixels (s : State) (b : Nat × Nat) :
    (s.blockPixels b).length = s.bw.toNat * s.bh.toNat := by
  rw [State.blockPixels, length_flatMap_uniform (n := s.bw.toNat) (by simp), List.length_range,
    Nat.mul_comm]

theorem State.length_visited (s : State) :
    s.visited.length = (s.xb.toNat * s.bw.toNat) * (s.yb.toNat * s.bh.toNat) := by
  rw [State.visited, length_flatMap_uniform s.length_blockPixels, s.length_blocks]
  ring

/-- Place `pixelNumber` of the walk holds the pixel (R49, R83). -/
theorem State.getElem?_visited {s : State} {x y : Nat} (hx : x < s.xb.toNat * s.bw.toNat)
    (hy : y < s.yb.toNat * s.bh.toNat) : s.visited[pixelNumber s x y]? = some (x, y) := by
  have hbw : 0 < s.bw.toNat := Nat.pos_of_mul_pos_left (Nat.zero_lt_of_lt hx)
  have hbh : 0 < s.bh.toNat := Nat.pos_of_mul_pos_left (Nat.zero_lt_of_lt hy)
  have hpx := Nat.mod_lt x hbw
  have hpy := Nat.mod_lt y hbh
  have hplace : y % s.bh.toNat * s.bw.toNat + x % s.bw.toNat < s.bw.toNat * s.bh.toNat := by
    have := Nat.mul_le_mul_right s.bw.toNat hpy
    rw [Nat.succ_mul, Nat.mul_comm s.bh.toNat] at this
    omega
  rw [State.visited, pixelNumber, Nat.add_assoc,
    getElem?_flatMap_uniform s.length_blockPixels _ hplace,
    State.getElem?_blocks ((Nat.div_lt_iff_lt_mul hbw).mpr hx)
      ((Nat.div_lt_iff_lt_mul hbh).mpr hy),
    Option.bind_some, State.getElem?_blockPixels _ hpx hpy]
  simp [Nat.div_add_mod']

/-- Settles O44: both levels list their cells row by row, in rows of one length. -/
theorem traversalOrder : Obligations.TraversalOrder := fun _ =>
  ⟨fun _ _ hbx hby => ⟨State.getElem?_blocks hbx hby, fun _ _ hpx hpy =>
    State.getElem?_blockPixels _ hpx hpy⟩, fun _ _ hx hy => State.getElem?_visited hx hy⟩

/-! Each pixel once (R84). -/

theorem block_pixel_lt {b n w k : Nat} (hb : b < n) (hk : k < w) : b * w + k < n * w :=
  calc b * w + k < b * w + w := by omega
    _ = (b + 1) * w := (Nat.succ_mul b w).symm
    _ ≤ n * w := Nat.mul_le_mul_right w hb

theorem State.mem_visited {s : State} {x y : Nat} :
    (x, y) ∈ s.visited ↔ x < s.xb.toNat * s.bw.toNat ∧ y < s.yb.toNat * s.bh.toNat := by
  refine ⟨fun h => ?_, fun ⟨hx, hy⟩ => List.mem_of_getElem? (State.getElem?_visited hx hy)⟩
  obtain ⟨b, hb, hp⟩ := List.mem_flatMap.mp h
  simp only [State.blocks, State.blockPixels, List.mem_flatMap, List.mem_map, List.mem_range]
    at hb hp
  obtain ⟨by_, hby, bx, hbx, rfl⟩ := hb
  obtain ⟨py, hpy, px, hpx, heq⟩ := hp
  obtain ⟨rfl, rfl⟩ := Prod.mk.inj heq
  exact ⟨block_pixel_lt hbx hpx, block_pixel_lt hby hpy⟩

/-- The walk has as many places as the block grid has pixels, and visits all of them. -/
theorem State.nodup_visited (s : State) : s.visited.Nodup := by
  have hset : (s.visited : Multiset (Nat × Nat)).toFinset =
      Finset.range (s.xb.toNat * s.bw.toNat) ×ˢ Finset.range (s.yb.toNat * s.bh.toNat) := by
    ext ⟨x, y⟩
    simp [State.mem_visited]
  rw [← Multiset.coe_nodup, ← Multiset.toFinset_card_eq_card_iff_nodup, hset,
    Finset.card_product, Finset.card_range, Finset.card_range, Multiset.coe_card,
    s.length_visited]

/-- With consistent geometry the block grid lies within the frame (R15, R84). -/
theorem State.blockGrid_le {s : State} (hg : s.geomOk = true) :
    s.xb.toNat * s.bw.toNat ≤ s.fw.toNat ∧ s.yb.toNat * s.bh.toNat ≤ s.fh.toNat := by
  cases hv : s.geomValid with
  | true =>
    simp only [State.geomOk, hv, if_true, Bool.and_eq_true, beq_iff_eq] at hg
    obtain ⟨⟨-, hxb⟩, hyb⟩ := hg
    rw [hxb, hyb, BitVec.toNat_udiv, BitVec.toNat_udiv]
    exact ⟨Nat.div_mul_le_self _ _, Nat.div_mul_le_self _ _⟩
  | false =>
    obtain ⟨-, -, hxb, hyb⟩ := State.geomOk_uninit hg hv
    simp [hxb, hyb]

theorem State.mem_visited_lt {s : State} (hg : s.geomOk = true) {p : Nat × Nat}
    (hp : p ∈ s.visited) : p.1 < s.fw.toNat ∧ p.2 < s.fh.toNat := by
  obtain ⟨hx, hy⟩ := State.mem_visited.mp hp
  obtain ⟨hw, hh⟩ := State.blockGrid_le hg
  exact ⟨hx.trans_le hw, hy.trans_le hh⟩

theorem State.length_visited_le {s : State} (hg : s.geomOk = true) :
    s.visited.length ≤ s.fw.toNat * s.fh.toNat := by
  obtain ⟨hw, hh⟩ := State.blockGrid_le hg
  exact s.length_visited.trans_le (Nat.mul_le_mul hw hh)

/-- The mirrors of visited pixels lie in columns 1 to `fw` and rows 1 to `fh` (R77). -/
theorem State.mirror_bounds {s : State} (hg : s.geomOk = true) {p : Nat × Nat}
    (hp : p ∈ s.visited) : 1 ≤ (s.mirror p).1 ∧ (s.mirror p).1 ≤ s.fw.toNat ∧
      1 ≤ (s.mirror p).2 ∧ (s.mirror p).2 ≤ s.fh.toNat := by
  obtain ⟨hx, hy⟩ := State.mem_visited_lt hg hp
  simp only [State.mirror]
  omega

/-- Settles O43: the walk lists the block grid without repetition, and the grid lies within the
frame. -/
theorem traversalVisitsEachPixelOnce : Obligations.TraversalVisitsEachPixelOnce := fun s hg =>
  ⟨s.nodup_visited, s.length_visited, State.length_visited_le hg, fun _ _ => State.mem_visited,
    fun _ hp => State.mirror_bounds hg hp⟩

/-- Different visited pixels have different mirrors (R77). -/
theorem State.mirror_injOn {s : State} (hg : s.geomOk = true) {p q : Nat × Nat}
    (hp : p ∈ s.visited) (hq : q ∈ s.visited) (h : s.mirror p = s.mirror q) : p = q := by
  obtain ⟨hpx, hpy⟩ := State.mem_visited_lt hg hp
  obtain ⟨hqx, hqy⟩ := State.mem_visited_lt hg hq
  obtain ⟨h₁, h₂⟩ := Prod.mk.inj h
  exact Prod.ext (by omega) (by omega)

/-- So visited pixels without repetition have mirrors without repetition. -/
theorem State.nodup_map_mirror {s : State} (hg : s.geomOk = true) {ps : List (Nat × Nat)}
    (hsub : ps.Sublist s.visited) : (ps.map s.mirror).Nodup :=
  (hsub.nodup s.nodup_visited).map_on fun _ hp _ hq =>
    State.mirror_injOn hg (hsub.subset hp) (hsub.subset hq)

end Sys2Proof.Machine

/-!
PROOF. FULL (44_frame_decode.md R86): the body that inflate leaves, and the walk that sets the
mirrors of the visited pixels.
-/

namespace Sys2Proof.Machine

/-! The body inflate leaves (R31, R60). -/

/-- The state inflate leaves over the tokens `toks` at the cursor. -/
def State.inflated (s : State) (toks : List Token) : State :=
  toks.foldl State.takeToken (s.startBody (expandTokens toks).length)

theorem State.inflated_eq (s : State) (toks : List Token) :
    s.inflated toks = { s with
      pos := s.pos + BitVec.ofNat 32 (encodeTokens toks).length,
      scratch := (s.inflated toks).scratch,
      work := ⟨(expandTokens toks).length, (expandTokens toks).length, 0⟩ } := by
  rw [State.inflated, foldl_takeToken]
  simp [State.startBody]

theorem State.inflated_work (s : State) (toks : List Token) :
    (s.inflated toks).work = ⟨(expandTokens toks).length, (expandTokens toks).length, 0⟩ := by
  rw [s.inflated_eq]

theorem State.inflated_fb (s : State) (toks : List Token) : (s.inflated toks).fb = s.fb := by
  rw [s.inflated_eq]

theorem State.inflated_cfg (s : State) (toks : List Token) : (s.inflated toks).cfg = s.cfg := by
  rw [s.inflated_eq]

theorem State.inflated_mirror (s : State) (toks : List Token) :
    (s.inflated toks).mirror = s.mirror := by
  rw [s.inflated_eq]
  rfl

theorem State.inflated_inGrid (s : State) (toks : List Token) :
    (s.inflated toks).inGrid = s.inGrid := by
  rw [s.inflated_eq]
  rfl

theorem State.inflated_pixel (s : State) (toks : List Token) :
    (s.inflated toks).pixel = s.pixel := by
  rw [s.inflated_eq]
  rfl

theorem State.inflated_visited (s : State) (toks : List Token) :
    (s.inflated toks).visited = s.visited := by
  rw [s.inflated_eq]
  rfl

theorem State.inflated_scratch_read (s : State) (toks : List Token) (a : Nat) :
    (s.inflated toks).scratch.read a = ((expandTokens toks)[a]?).getD (s.scratch.read a) := by
  simp [State.inflated, foldl_takeToken_read]

/-- The bits of a body byte by byte, the low bit first (R31). -/
theorem getElem?_bodyBits (bs : List Byte) (i : Nat) :
    (bodyBits bs)[i]? = bs[i / 8]?.map fun b => b.getLsbD (i % 8) := by
  have hi := Nat.mod_lt i (show 0 < 8 by omega)
  conv_lhs => rw [← Nat.div_add_mod' i 8]
  rw [bodyBits, getElem?_flatMap_uniform (n := 8) (by simp) _ hi]
  cases bs[i / 8]? <;> simp [hi]

theorem length_bodyBits (bs : List Byte) : (bodyBits bs).length = 8 * bs.length := by
  rw [bodyBits, length_flatMap_uniform (n := 8) (by simp), Nat.mul_comm]

/-- The body bits the walk reads are those of the expanded tokens. -/
theorem State.inflated_scratchBit (s : State) (toks : List Token) {i : Nat}
    (hi : i < 8 * (expandTokens toks).length) :
    (bodyBits (expandTokens toks))[i]? = some ((s.inflated toks).scratchBit i) := by
  have hget := List.getElem?_eq_getElem (l := expandTokens toks) (i := i / 8) (by omega)
  rw [getElem?_bodyBits, State.scratchBit, State.inflated_scratch_read, hget]
  rfl

/-- A frame record over a body of its length runs its walk on what inflate leaves (R88). -/
theorem frameRecord_of_tokens {s : State} {toks : List Token} {n : Nat} (walk : State → Res Unit)
    (htoks : tokensAt s s.pos.toNat toks = true) (hlen : (expandTokens toks).length = n)
    (hcap : n ≤ s.cfg.scratchBytes) :
    ((inflate n s).bind fun _ u => walk u).outcome = (walk (s.inflated toks)).outcome := by
  subst hlen
  rw [inflate_tokens htoks rfl hcap]
  rfl

theorem exec_full_of_tokens {s : State} {toks : List Token}
    (htoks : tokensAt s s.pos.toNat toks = true)
    (hlen : (expandTokens toks).length = s.fullLen) (hcap : s.fullLen ≤ s.cfg.scratchBytes) :
    exec .full s = (setPixels s.visited (s.inflated toks)).outcome := by
  rw [← s.inflated_visited toks]
  exact frameRecord_of_tokens (fun u => setPixels u.visited u) htoks hlen hcap

/-! The walk of FULL (R86). -/

theorem bodyBit_ok {s : State} (h : s.work.idx < 8 * s.work.bodyLen) :
    bodyBit s = .ok (s.scratchBit s.work.idx) s.nextBit :=
  (bodyBit_eq s).trans (if_neg (Nat.not_le.mpr h))

/-- FULL's walk after its first pixel, with a bit for it and its mirror in the storage. -/
theorem setPixels_cons {s : State} {p : Nat × Nat} (ps : List (Nat × Nat))
    (hbit : s.work.idx < 8 * s.work.bodyLen)
    (hin : s.inGrid (s.mirror p).1 (s.mirror p).2 = true) :
    setPixels (p :: ps) s = setPixels ps
      (s.nextBit.putPixel (s.mirror p).1 (s.mirror p).2 (!s.scratchBit s.work.idx)) := by
  rw [setPixels, bodyBit_ok hbit, Res.bind_ok]
  exact congrArg (fun r => Res.bind r fun _ u => setPixels ps u)
    (fbSet_of_inGrid (s := s.nextBit) _ hin)

/-- FULL's walk at a first pixel whose mirror lies outside the storage (R89). -/
theorem setPixels_cons_outside {s : State} {p : Nat × Nat} (ps : List (Nat × Nat))
    (hbit : s.work.idx < 8 * s.work.bodyLen)
    (hin : ¬ s.inGrid (s.mirror p).1 (s.mirror p).2 = true) :
    setPixels (p :: ps) s = .raised (s.nextBit.raise .fbBounds) := by
  rw [setPixels, bodyBit_ok hbit, Res.bind_ok]
  exact congrArg (fun r => Res.bind r fun _ u => setPixels ps u)
    (fbSet_of_not_inGrid (s := s.nextBit) _ hin)

/-- With a bit for every pixel and every mirror in the storage, the walk completes. Where the
mirrors differ, each holds the inverse of its pixel's bit, and no other pixel has changed. -/
theorem setPixels_completes {s : State} {ps : List (Nat × Nat)}
    (hbits : s.work.idx + ps.length ≤ 8 * s.work.bodyLen)
    (hin : ∀ p ∈ ps, s.inGrid (s.mirror p).1 (s.mirror p).2 = true)
    (hnodup : (ps.map s.mirror).Nodup) :
    ∃ t, setPixels ps s = .ok () t ∧ t.work.idx = s.work.idx + ps.length ∧
      (∀ k p, ps[k]? = some p →
        t.pixel (s.mirror p).1 (s.mirror p).2 = !s.scratchBit (s.work.idx + k)) ∧
      ∀ mx my, mx < s.cfg.fbStride → (∀ p ∈ ps, s.mirror p ≠ (mx, my)) →
        t.pixel mx my = s.pixel mx my := by
  induction ps generalizing s with
  | nil => exact ⟨s, rfl, rfl, nofun, fun _ _ _ _ => rfl⟩
  | cons p ps ih =>
    rw [List.length_cons] at hbits
    obtain ⟨hp, hps⟩ := List.forall_mem_cons.mp hin
    obtain ⟨hnotin, hnodup⟩ := List.nodup_cons.mp hnodup
    have hstride := (State.inGrid_iff.mp hp).1
    obtain ⟨t, ht, hidx, hset, hkeep⟩ :=
      ih (s := s.nextBit.putPixel (s.mirror p).1 (s.mirror p).2 (!s.scratchBit s.work.idx))
        (by simp only [State.putPixel, State.withFb_work, State.nextBit_work]; omega)
        hps hnodup
    simp only [State.putPixel, State.withFb_work, State.nextBit_work] at hidx
    have hfirst : ∀ mx my, mx < s.cfg.fbStride →
        (s.nextBit.putPixel (s.mirror p).1 (s.mirror p).2 (!s.scratchBit s.work.idx)).pixel mx my
          = if mx = (s.mirror p).1 ∧ my = (s.mirror p).2 then !s.scratchBit s.work.idx
            else s.pixel mx my :=
      fun mx my hmx => State.pixel_putPixel (s := s.nextBit) _ hstride hmx
    refine ⟨t, (setPixels_cons ps (by omega) hp).trans ht, by rw [hidx, List.length_cons]; omega,
      fun k q hq => ?_, fun mx my hmx hne => ?_⟩
    · cases k with
      | zero =>
        cases hq
        have hne : ∀ q ∈ ps, s.mirror q ≠ s.mirror p := fun q hq heq =>
          hnotin (List.mem_map.mpr ⟨q, hq, heq⟩)
        rw [hkeep (s.mirror p).1 (s.mirror p).2 hstride hne, hfirst _ _ hstride,
          if_pos ⟨rfl, rfl⟩, Nat.add_zero]
      | succ k =>
        rw [Nat.add_comm k, ← Nat.add_assoc]
        exact hset k q hq
    · obtain ⟨hne', hne⟩ := List.forall_mem_cons.mp hne
      rw [hkeep mx my hmx hne, hfirst mx my hmx, if_neg]
      rintro ⟨rfl, rfl⟩
      exact hne' rfl

/-- A body of the implicit length holds a bit for every visited pixel (R84, R86). -/
theorem State.length_visited_le_bits {s : State} (hg : s.geomOk = true) :
    s.visited.length ≤ 8 * s.fullLen := by
  have := State.length_visited_le hg
  rw [State.fullLen, ceilDiv]
  omega

/-- A storage that holds the mirror `(fw, fh)` of the first pixel holds all mirrors (R33, R77). -/
theorem State.mirror_inGrid {s : State} (hg : s.geomOk = true)
    (hin : s.visited = [] ∨ (s.fw.toNat < s.cfg.fbStride ∧ s.fh.toNat < 8 * s.cfg.fbPages)) :
    ∀ p ∈ s.visited, s.inGrid (s.mirror p).1 (s.mirror p).2 = true := by
  intro p hp
  obtain hnil | ⟨hw, hh⟩ := hin
  · rw [hnil] at hp
    cases hp
  · obtain ⟨-, hx, -, hy⟩ := State.mirror_bounds hg hp
    exact State.inGrid_iff.mpr ⟨hx.trans_lt hw, hy.trans_lt hh⟩

/-- Settles O45: the walk completes over the inflated body, and a pixel's place in the walk is its
`pixelNumber`. -/
theorem fullSetsMirroredPixels : Obligations.FullSetsMirroredPixels := by
  intro s toks hg htoks hlen hcap hin
  have hbits := State.length_visited_le_bits hg
  have hwork := s.inflated_work toks
  obtain ⟨t, ht, hidx, hset, hkeep⟩ := setPixels_completes (s := s.inflated toks) (ps := s.visited)
    (by rw [hwork]; simpa [hlen] using hbits)
    (by rw [s.inflated_mirror, s.inflated_inGrid]; exact State.mirror_inGrid hg hin)
    (by rw [s.inflated_mirror]; exact State.nodup_map_mirror hg (List.Sublist.refl _))
  have hexec : exec .full s = .next t := by
    rw [exec_full_of_tokens htoks hlen hcap, ht]
    rfl
  have hwalk : WalkKeeps (s.inflated toks) t :=
    (setPixels_spec (S := fun _ => True) _ _ fun _ _ => trivial).keeps_of_ok ht
  simp only [s.inflated_mirror, s.inflated_cfg, s.inflated_pixel, hwork, Nat.zero_add]
    at hset hkeep hidx
  obtain ⟨u, hu, -, hfb, hscratch, -⟩ := execFull_spec s
  cases hu.symm.trans hexec
  refine ⟨t, hexec, ?_, fun x y hx hy => ?_, hkeep, hfb, hscratch⟩
  · unfold WalkKeeps at hwalk
    rw [hwalk, hidx, s.inflated_eq, hlen]
  · have hplace := State.getElem?_visited hx hy
    have hlt := (List.getElem?_eq_some_iff.mp hplace).1
    rw [List.getD_eq_getElem?_getD, s.inflated_scratchBit toks (by omega), Option.getD_some]
    exact hset _ (x, y) hplace

theorem State.visited_eq_cons {s : State} (h : s.visited ≠ []) :
    ∃ ps, s.visited = (0, 0) :: ps := by
  obtain ⟨⟨x, y⟩, hp⟩ := List.exists_mem_of_ne_nil _ h
  obtain ⟨hx, hy⟩ := State.mem_visited.mp hp
  have hfirst := State.getElem?_visited (Nat.zero_lt_of_lt hx) (Nat.zero_lt_of_lt hy)
  rw [show pixelNumber s 0 0 = 0 by simp [pixelNumber], ← List.head?_eq_getElem?] at hfirst
  exact List.head?_eq_some_iff.mp hfirst

/-- Settles O46: the first access of the walk is the set at the mirror of pixel `(0, 0)`. -/
theorem fullOutsideStorageFaults : Obligations.FullOutsideStorageFaults := by
  intro s toks hg htoks hlen hcap hne hout
  obtain ⟨ps, hps⟩ := State.visited_eq_cons hne
  have hbits := State.length_visited_le_bits hg
  rw [hps, List.length_cons] at hbits
  have hbit : (s.inflated toks).work.idx < 8 * (s.inflated toks).work.bodyLen := by
    rw [s.inflated_work, hlen]
    exact Nat.lt_of_lt_of_le (Nat.succ_pos _) hbits
  have hfault : setPixels s.visited (s.inflated toks) =
      .raised ((s.inflated toks).nextBit.raise .fbBounds) := by
    rw [hps]
    refine setPixels_cons_outside ps hbit ?_
    rw [s.inflated_mirror, s.inflated_inGrid, State.not_inGrid_iff]
    exact hout
  refine ⟨(s.inflated toks).nextBit.raise .fbBounds, ?_, ?_⟩
  · rw [exec_full_of_tokens htoks hlen hcap, hfault]
    rfl
  · rw [s.inflated_eq]
    rfl

/-- With a bit for every pixel the walk of FULL raises FB_BOUNDS only (R85). -/
theorem setPixels_raised_cause {s t : State} {ps : List (Nat × Nat)}
    (hbits : s.work.idx + ps.length ≤ 8 * s.work.bodyLen) (h : setPixels ps s = .raised t) :
    t.cause = .fbBounds := by
  induction ps generalizing s with
  | nil => cases h
  | cons p ps ih =>
    rw [List.length_cons] at hbits
    by_cases hin : s.inGrid (s.mirror p).1 (s.mirror p).2 = true
    · rw [setPixels_cons ps (by omega) hin] at h
      exact ih (by simp only [State.putPixel, State.withFb_work, State.nextBit_work]; omega) h
    · rw [setPixels_cons_outside ps (by omega) hin] at h
      cases h
      rfl

/-- Settles O47: a fault of inflate has one of three causes, and the body inflate leaves has a bit
for every visited pixel. -/
theorem fullNeverUnderruns : Obligations.FullNeverUnderruns := by
  intro s t hg hf h ht
  obtain ⟨u, hu, hk, hbody, hidx, -⟩ | ⟨u, hu, ⟨hcause, -⟩, -⟩ := inflate_spec s.fullLen s
  · have hvisited : u.visited = s.visited := by rw [hk]; rfl
    have huf : u.faulted = s.faulted := by rw [hk]
    have hexec : exec .full s = (setPixels s.visited u).outcome := by
      simp [exec, execFull, hu, hvisited]
    rw [hexec] at h
    obtain ⟨v, hv, hwk, -⟩ | ⟨v, hv, -⟩ :=
      setPixels_spec (S := fun _ => True) s.visited u fun _ _ => trivial
    · rw [hv] at h
      obtain rfl : v = t := Host.Outcome.next.inj h
      unfold WalkKeeps at hwk
      rw [hwk, huf, hf] at ht
      cases ht
    · rw [hv] at h
      obtain rfl : v = t := Host.Outcome.next.inj h
      have hbits := State.length_visited_le_bits hg
      exact .inr (.inr (.inr (setPixels_raised_cause (by rwa [hbody, hidx, Nat.zero_add]) hv)))
  · obtain rfl : u = t := Host.Outcome.next.inj ((frameRecord_raised _ hu).symm.trans h)
    obtain hc | hc | hc := hcause
    · exact .inl hc
    · exact .inr (.inl hc)
    · exact .inr (.inr (.inl hc))

end Sys2Proof.Machine

/-!
PROOF. DELTA (44_frame_decode.md R87): inverted pixels (43_framebuffer.md R80), and the walk as the
trace of its flags says it, completed or faulted.
-/

namespace Sys2Proof.Machine

/-! Inverting a pixel (R80). -/

/-- The framebuffer with one pixel inverted. -/
def State.togglePixel (x y : Nat) (s : State) : State := s.putPixel x y (!s.pixel x y)

theorem fbInvert_of_inGrid {s : State} {x y : Nat} (h : s.inGrid x y = true) :
    fbInvert x y s = .ok () (s.togglePixel x y) := (fbInvert_eq x y s).trans (if_pos h)

theorem fbInvert_of_not_inGrid {s : State} {x y : Nat} (h : ¬ s.inGrid x y = true) :
    fbInvert x y s = .raised (s.raise .fbBounds) := (fbInvert_eq x y s).trans (if_neg h)

theorem State.read_togglePixel (s : State) (x y a : Nat) :
    (s.togglePixel x y).fb.read a =
      if a = s.fbIndex x y then s.fb.read a ^^^ (1#8 <<< (y % 8)) else s.fb.read a := by
  have hread : (s.togglePixel x y).fb.read a = if a = s.fbIndex x y then
      putBit (s.fb.read (s.fbIndex x y)) (y % 8) (!s.pixel x y) else s.fb.read a :=
    Mem.read_write ..
  rw [hread, State.pixel, putBit_not]
  split_ifs with ha
  · rw [ha]
  · rfl

theorem State.pixel_togglePixel {s : State} {x y x' y' : Nat} (hx : x < s.cfg.fbStride)
    (hx' : x' < s.cfg.fbStride) :
    (s.togglePixel x y).pixel x' y' = (s.pixel x' y' ^^ decide ((x, y) = (x', y'))) := by
  rw [State.togglePixel, State.pixel_putPixel _ hx hx']
  by_cases h : x' = x ∧ y' = y
  · obtain ⟨rfl, rfl⟩ := h
    simp
  · have hne : ¬ (x, y) = (x', y') := fun heq => h (by cases heq; exact ⟨rfl, rfl⟩)
    simp [h, hne]

/-- Settles O42: an invert is an xor of one byte with one bit, and an xor twice is none. -/
theorem invertTogglesOnePixel : Obligations.InvertTogglesOnePixel := by
  refine fun s x y => ⟨fun hx hy => ?_, fun hout =>
    fbInvert_of_not_inGrid (State.not_inGrid_iff.mpr hout)⟩
  have hin : s.inGrid x y = true := State.inGrid_iff.mpr ⟨hx, hy⟩
  refine ⟨s.togglePixel x y, (s.togglePixel x y).togglePixel x y, fbInvert_of_inGrid hin, rfl,
    s.read_togglePixel x y, fbInvert_of_inGrid (s := s.togglePixel x y) hin, rfl, fun a => ?_⟩
  have hindex : (s.togglePixel x y).fbIndex x y = s.fbIndex x y := rfl
  rw [State.read_togglePixel, State.read_togglePixel, hindex]
  split_ifs
  · rw [BitVec.xor_assoc, BitVec.xor_self, BitVec.xor_zero]
  · rfl

/-! Inverting the mirrors of a list of pixels. -/

/-- The mirror of each pixel of the list inverted, in order. -/
def State.toggleMirrors : List (Nat × Nat) → State → State
  | [], s => s
  | p :: ps, s => State.toggleMirrors ps (s.togglePixel (s.mirror p).1 (s.mirror p).2)

theorem State.toggleMirrors_append (ps qs : List (Nat × Nat)) (s : State) :
    s.toggleMirrors (ps ++ qs) = (s.toggleMirrors ps).toggleMirrors qs := by
  induction ps generalizing s with
  | nil => rfl
  | cons p ps ih => exact ih _

theorem State.toggleMirrors_keeps (ps : List (Nat × Nat)) (s : State) :
    s.toggleMirrors ps = { s with fb := (s.toggleMirrors ps).fb } := by
  induction ps generalizing s with
  | nil => rfl
  | cons p ps ih =>
    rw [State.toggleMirrors, ih]
    rfl

/-- What inverting the mirrors of `ps` xors byte `a` with. -/
def State.toggleMask (s : State) : List (Nat × Nat) → Nat → Byte
  | [], _ => 0
  | p :: ps, a =>
    (if a = s.mirrorIndex p then 1#8 <<< ((s.mirror p).2 % 8) else 0) ^^^ s.toggleMask ps a

theorem State.toggleMask_congr {s t : State} (hm : t.mirror = s.mirror)
    (hi : t.mirrorIndex = s.mirrorIndex) (ps : List (Nat × Nat)) :
    t.toggleMask ps = s.toggleMask ps := by
  induction ps with
  | nil => rfl
  | cons p ps ih => funext a; simp [State.toggleMask, hm, hi, ih]

theorem State.read_toggleMirrors (ps : List (Nat × Nat)) (s : State) (a : Nat) :
    (s.toggleMirrors ps).fb.read a = s.fb.read a ^^^ s.toggleMask ps a := by
  induction ps generalizing s with
  | nil => exact BitVec.xor_zero.symm
  | cons p ps ih =>
    have hmask : (s.togglePixel (s.mirror p).1 (s.mirror p).2).toggleMask ps = s.toggleMask ps :=
      State.toggleMask_congr (s := s)
        (t := s.togglePixel (s.mirror p).1 (s.mirror p).2) rfl rfl ps
    rw [State.toggleMirrors, ih, hmask, State.read_togglePixel, State.toggleMask,
      State.mirrorIndex, ← BitVec.xor_assoc]
    split_ifs
    · rfl
    · simp

theorem State.toggleMask_eq_zero {s : State} {ps : List (Nat × Nat)} {a : Nat}
    (h : ∀ p ∈ ps, a ≠ s.mirrorIndex p) : s.toggleMask ps a = 0 := by
  induction ps with
  | nil => rfl
  | cons p ps ih =>
    obtain ⟨hp, hps⟩ := List.forall_mem_cons.mp h
    simp [State.toggleMask, hp, ih hps]

theorem State.read_toggleMirrors_ne {s : State} {ps : List (Nat × Nat)} {a : Nat}
    (h : ∀ p ∈ ps, a ≠ s.mirrorIndex p) : (s.toggleMirrors ps).fb.read a = s.fb.read a := by
  rw [State.read_toggleMirrors, State.toggleMask_eq_zero h]
  exact BitVec.xor_zero

/-- A pixel is inverted as often as it is the mirror of a pixel of the list. -/
theorem State.pixel_toggleMirrors {s : State} {ps : List (Nat × Nat)} {mx my : Nat}
    (hps : ∀ p ∈ ps, s.inGrid (s.mirror p).1 (s.mirror p).2 = true) (hmx : mx < s.cfg.fbStride) :
    (s.toggleMirrors ps).pixel mx my =
      (s.pixel mx my ^^ decide ((ps.map s.mirror).count (mx, my) % 2 = 1)) := by
  induction ps generalizing s with
  | nil => simp [State.toggleMirrors]
  | cons p ps ih =>
    obtain ⟨hp, hps⟩ := List.forall_mem_cons.mp hps
    have hfirst := State.pixel_togglePixel (y := (s.mirror p).2) (y' := my)
      (State.inGrid_iff.mp hp).1 hmx
    have hrest := ih (s := s.togglePixel (s.mirror p).1 (s.mirror p).2) hps hmx
    have hmirror : (s.togglePixel (s.mirror p).1 (s.mirror p).2).mirror = s.mirror := rfl
    rw [State.toggleMirrors, hrest, hfirst, hmirror, List.map_cons, List.count_cons,
      Bool.xor_assoc]
    congr 1
    by_cases heq : s.mirror p = (mx, my)
    · simp only [heq, decide_true, beq_self_eq_true, if_true]
      rcases Nat.mod_two_eq_zero_or_one ((ps.map s.mirror).count (mx, my)) with h | h
      · simp [h, show ((ps.map s.mirror).count (mx, my) + 1) % 2 = 1 by omega]
      · simp [h, show ((ps.map s.mirror).count (mx, my) + 1) % 2 = 0 by omega]
    · have hne : (s.mirror p == (mx, my)) = false := beq_eq_false_iff_ne.mpr heq
      simp [heq, hne]

/-! The bits ahead of the walk (R85). -/

/-- The body bits from `idx` on. -/
def State.bitsLeft (s : State) : List Bool :=
  (List.range' s.work.idx (8 * s.work.bodyLen - s.work.idx)).map s.scratchBit

theorem State.bitsLeft_congr {s t : State} (hs : t.scratch = s.scratch) (hw : t.work = s.work) :
    t.bitsLeft = s.bitsLeft := by
  have hbit : t.scratchBit = s.scratchBit := by
    funext i
    rw [State.scratchBit, hs]
    rfl
  rw [State.bitsLeft, hw, hbit]
  rfl

theorem State.bitsLeft_eq (s : State) :
    s.bitsLeft = if 8 * s.work.bodyLen ≤ s.work.idx then []
      else s.scratchBit s.work.idx :: s.nextBit.bitsLeft := by
  have hbit : s.nextBit.scratchBit = s.scratchBit := rfl
  simp only [State.bitsLeft, hbit, State.nextBit_work]
  split_ifs with h
  · simp [Nat.sub_eq_zero_of_le h]
  · rw [show 8 * s.work.bodyLen - s.work.idx = 8 * s.work.bodyLen - (s.work.idx + 1) + 1 by omega,
      List.range'_succ, List.map_cons]

theorem bodyBit_nil {s : State} (h : s.bitsLeft = []) :
    bodyBit s = .raised (s.raise .bodyUnderrun) := by
  rw [State.bitsLeft_eq] at h
  rw [bodyBit_eq]
  split_ifs at h ⊢
  rfl

theorem bodyBit_cons {s : State} {b : Bool} {r : List Bool} (h : s.bitsLeft = b :: r) :
    bodyBit s = .ok b s.nextBit ∧ s.nextBit.bitsLeft = r := by
  rw [State.bitsLeft_eq] at h
  rw [bodyBit_eq]
  split_ifs at h ⊢
  obtain ⟨rfl, rfl⟩ := List.cons.inj h
  exact ⟨rfl, rfl⟩

/-- `n` bits of the body consumed. -/
def State.skipBits (n : Nat) (s : State) : State :=
  { s with work := { s.work with idx := s.work.idx + n } }

theorem State.bitsLeft_skipBits (n : Nat) (s : State) :
    (s.skipBits n).bitsLeft = s.bitsLeft.drop n := by
  have hbit : (s.skipBits n).scratchBit = s.scratchBit := rfl
  rw [State.bitsLeft, hbit, State.bitsLeft, ← List.map_drop, List.drop_range']
  simp [State.skipBits, Nat.sub_sub]

/-! How a walk ends that has flagged the pixels `tg` (R87, R89). -/

/-- FB_BOUNDS at the first flagged pixel whose mirror lies outside the storage; if there is none,
the walk completes, or its bits run out. The pixels flagged before the end are toggled. -/
def walkEnd (s : State) (tg : List (Nat × Nat)) (enough : Bool) (n : Nat) : Res Unit :=
  if s.beforeOutside tg = tg then
    if enough then .ok () ((s.toggleMirrors tg).skipBits n)
    else .raised ((s.toggleMirrors tg).raise .bodyUnderrun)
  else .raised ((s.toggleMirrors (s.beforeOutside tg)).raise .fbBounds)

theorem State.beforeOutside_congr {s t : State} (hg : t.inGrid = s.inGrid)
    (hm : t.mirror = s.mirror) : t.beforeOutside = s.beforeOutside := by
  funext ps
  simp [State.beforeOutside, hg, hm]

theorem State.beforeOutside_cons {s : State} {p : Nat × Nat} (ps : List (Nat × Nat))
    (h : s.inGrid (s.mirror p).1 (s.mirror p).2 = true) :
    s.beforeOutside (p :: ps) = p :: s.beforeOutside ps := by
  simp [State.beforeOutside, h]

theorem State.beforeOutside_cons_outside {s : State} {p : Nat × Nat} (ps : List (Nat × Nat))
    (h : ¬ s.inGrid (s.mirror p).1 (s.mirror p).2 = true) : s.beforeOutside (p :: ps) = [] := by
  simp [State.beforeOutside, h]

theorem State.beforeOutside_eq_self {s : State} {ps : List (Nat × Nat)} :
    s.beforeOutside ps = ps ↔ ∀ p ∈ ps, s.inGrid (s.mirror p).1 (s.mirror p).2 = true :=
  List.takeWhile_eq_self_iff

theorem State.beforeOutside_append {s : State} {ps : List (Nat × Nat)} (qs : List (Nat × Nat))
    (h : s.beforeOutside ps = ps) : s.beforeOutside (ps ++ qs) = ps ++ s.beforeOutside qs :=
  List.takeWhile_append_of_pos (State.beforeOutside_eq_self.mp h)

/-- The flagged pixels before the first outside the storage are inside it. -/
theorem State.beforeOutside_inGrid {s : State} {ps : List (Nat × Nat)} :
    ∀ p ∈ s.beforeOutside ps, s.inGrid (s.mirror p).1 (s.mirror p).2 = true :=
  fun _ hp => List.mem_takeWhile_imp (p := fun p => s.inGrid (s.mirror p).1 (s.mirror p).2) hp

/-- A walk that stops in the first part of its list does not depend on the second. -/
theorem State.beforeOutside_append_of_ne {s : State} {ps : List (Nat × Nat)}
    (qs : List (Nat × Nat)) (h : s.beforeOutside ps ≠ ps) :
    s.beforeOutside (ps ++ qs) = s.beforeOutside ps := by
  rw [State.beforeOutside, List.takeWhile_append, if_neg]
  · rfl
  · exact fun hlen => h ((List.takeWhile_sublist _).eq_of_length hlen)

theorem State.toggleMirrors_bitsLeft (ps : List (Nat × Nat)) (s : State) :
    (s.toggleMirrors ps).bitsLeft = s.bitsLeft := by
  rw [State.toggleMirrors_keeps]
  exact State.bitsLeft_congr rfl rfl

theorem State.toggleMirrors_blockPixels (ps : List (Nat × Nat)) (s : State) :
    (s.toggleMirrors ps).blockPixels = s.blockPixels := by
  rw [State.toggleMirrors_keeps]
  rfl

theorem toggleMirrors_nextBit_raise (ps : List (Nat × Nat)) (s : State) (c : Cause) :
    (s.nextBit.toggleMirrors ps).raise c = (s.toggleMirrors ps).raise c := by
  induction ps generalizing s with
  | nil => rfl
  | cons p ps ih => exact ih (s.togglePixel (s.mirror p).1 (s.mirror p).2)

theorem toggleMirrors_nextBit_skipBits (ps : List (Nat × Nat)) (s : State) (n : Nat) :
    (s.nextBit.toggleMirrors ps).skipBits n = (s.toggleMirrors ps).skipBits (n + 1) := by
  induction ps generalizing s with
  | nil => simp [State.toggleMirrors, State.skipBits, State.nextBit, Nat.add_comm n,
      Nat.add_assoc]
  | cons p ps ih => exact ih (s.togglePixel (s.mirror p).1 (s.mirror p).2)

theorem State.toggleMirrors_skipBits (ps : List (Nat × Nat)) (s : State) (n : Nat) :
    (s.skipBits n).toggleMirrors ps = (s.toggleMirrors ps).skipBits n := by
  induction ps generalizing s with
  | nil => rfl
  | cons p ps ih => exact ih (s.togglePixel (s.mirror p).1 (s.mirror p).2)

/-- A bit consumed before the walk is one more consumed in it. -/
theorem walkEnd_nextBit (s : State) (tg : List (Nat × Nat)) (enough : Bool) (n : Nat) :
    walkEnd s.nextBit tg enough n = walkEnd s tg enough (n + 1) := by
  have hb : s.nextBit.beforeOutside = s.beforeOutside := State.beforeOutside_congr rfl rfl
  simp only [walkEnd, hb, toggleMirrors_nextBit_raise, toggleMirrors_nextBit_skipBits]

/-- A pixel toggled before the walk is the first one toggled in it. -/
theorem walkEnd_cons {s : State} {p : Nat × Nat} (tg : List (Nat × Nat)) (enough : Bool) (n : Nat)
    (h : s.inGrid (s.mirror p).1 (s.mirror p).2 = true) :
    walkEnd (s.togglePixel (s.mirror p).1 (s.mirror p).2) tg enough n =
      walkEnd s (p :: tg) enough n := by
  have hb : (s.togglePixel (s.mirror p).1 (s.mirror p).2).beforeOutside = s.beforeOutside :=
    State.beforeOutside_congr rfl rfl
  simp only [walkEnd, hb, State.beforeOutside_cons tg h, List.cons.injEq, true_and]
  rfl

theorem walkEnd_cons_outside {s : State} {p : Nat × Nat} (tg : List (Nat × Nat)) (enough : Bool)
    (n : Nat) (h : ¬ s.inGrid (s.mirror p).1 (s.mirror p).2 = true) :
    walkEnd s (p :: tg) enough n = .raised (s.raise .fbBounds) := by
  rw [walkEnd, State.beforeOutside_cons_outside tg h, if_neg (by simp)]
  rfl

/-- A walk whose bits ran out goes no further. -/
theorem walkEnd_false_bind (s : State) (tg : List (Nat × Nat)) (n m : Nat)
    (f : Unit → State → Res Unit) :
    (walkEnd s tg false n).bind f = walkEnd s tg false m := by
  simp only [walkEnd, Bool.false_eq_true, if_false]
  split_ifs <;> rfl

/-- A walk that goes on after it flagged `tg` flags the rest, or has ended at its first pixel
outside the storage. -/
theorem walkEnd_append {s : State} {tg tg' : List (Nat × Nat)} {enough : Bool} {n m : Nat}
    {f : Unit → State → Res Unit}
    (hf : f () ((s.toggleMirrors tg).skipBits n) =
      walkEnd ((s.toggleMirrors tg).skipBits n) tg' enough m) :
    (walkEnd s tg true n).bind f = walkEnd s (tg ++ tg') enough (n + m) := by
  by_cases htg : s.beforeOutside tg = tg
  · have hkeep := s.toggleMirrors_keeps tg
    have hb : ((s.toggleMirrors tg).skipBits n).beforeOutside = s.beforeOutside := by
      rw [hkeep]
      exact State.beforeOutside_congr rfl rfl
    have hok : walkEnd s tg true n = .ok () ((s.toggleMirrors tg).skipBits n) := by
      simp [walkEnd, htg]
    rw [hok, Res.bind_ok, hf]
    simp only [walkEnd, hb, State.beforeOutside_append tg' htg, List.append_cancel_left_eq,
      State.toggleMirrors_append, State.toggleMirrors_skipBits]
    split_ifs
    · simp [State.skipBits, Nat.add_assoc]
    · rfl
    · rfl
  · have hbefore := State.beforeOutside_append_of_ne tg' htg
    have hne : s.beforeOutside (tg ++ tg') ≠ tg ++ tg' := fun heq => by
      rw [State.beforeOutside_eq_self] at heq
      exact htg (State.beforeOutside_eq_self.mpr fun p hp => heq p (List.mem_append_left _ hp))
    rw [walkEnd, if_neg htg, walkEnd, if_neg hne, hbefore]
    rfl

/-! The walk of DELTA is its trace (R50, R87). -/

/-- The pixels of a dirty block that the flags `r` name. -/
def flaggedPixels (ps : List (Nat × Nat)) (r : List Bool) : List (Nat × Nat) :=
  ((ps.zip r).filter fun pr => pr.2).map Prod.fst

/-- The walk over a dirty block toggles the pixels its flags name. -/
theorem togglePixels_eq (ps : List (Nat × Nat)) (s : State) :
    togglePixels ps s = walkEnd s (flaggedPixels ps s.bitsLeft)
      (decide (ps.length ≤ s.bitsLeft.length)) ps.length := by
  induction ps generalizing s with
  | nil => rfl
  | cons p ps ih =>
    cases hbits : s.bitsLeft with
    | nil =>
      rw [togglePixels, bodyBit_nil hbits]
      rfl
    | cons b r =>
      obtain ⟨hbit, hr⟩ := bodyBit_cons hbits
      have hlen : decide ((p :: ps).length ≤ (b :: r).length) = decide (ps.length ≤ r.length) := by
        simp
      rw [togglePixels, hbit, Res.bind_ok, hlen, List.length_cons, ← walkEnd_nextBit]
      cases b with
      | false =>
        have hrest := ih s.nextBit
        rw [hr] at hrest
        exact hrest
      | true =>
        by_cases hin : s.nextBit.inGrid (s.nextBit.mirror p).1 (s.nextBit.mirror p).2 = true
        · have hrest := ih (s.nextBit.togglePixel (s.nextBit.mirror p).1 (s.nextBit.mirror p).2)
          have hr' : (s.nextBit.togglePixel (s.nextBit.mirror p).1
              (s.nextBit.mirror p).2).bitsLeft = r := (State.bitsLeft_congr rfl rfl).trans hr
          rw [hr', walkEnd_cons _ _ _ hin] at hrest
          simp only [if_true]
          rw [fbInvert_of_inGrid hin]
          exact hrest
        · have hend := walkEnd_cons_outside (flaggedPixels ps r) (decide (ps.length ≤ r.length))
            ps.length hin
          simp only [if_true]
          rw [fbInvert_of_not_inGrid hin]
          exact hend.symm

/-- The walk over the blocks `bs` ends as the trace of its flags says. -/
theorem toggleBlocks_eq (bs : List (Nat × Nat)) (s : State) :
    ∃ n, toggleBlocks bs s = walkEnd s (toggleTrace s.blockPixels bs s.bitsLeft).1
      (toggleTrace s.blockPixels bs s.bitsLeft).2 n := by
  induction bs generalizing s with
  | nil => exact ⟨0, rfl⟩
  | cons b bs ih =>
    cases hbits : s.bitsLeft with
    | nil =>
      rw [toggleBlocks, bodyBit_nil hbits]
      exact ⟨0, rfl⟩
    | cons d r =>
      obtain ⟨hbit, hr⟩ := bodyBit_cons hbits
      have hpixels : s.nextBit.blockPixels = s.blockPixels := rfl
      rw [toggleBlocks, hbit, Res.bind_ok]
      cases d with
      | false =>
        obtain ⟨n, hn⟩ := ih s.nextBit
        rw [hr, hpixels, walkEnd_nextBit] at hn
        exact ⟨n + 1, hn⟩
      | true =>
        have hblock := togglePixels_eq (s.blockPixels b) s.nextBit
        rw [hr] at hblock
        simp only [if_true, hpixels, hblock, toggleTrace]
        split_ifs with hshort
        · rw [decide_eq_false (Nat.not_le.mpr hshort)]
          exact ⟨1, (walkEnd_false_bind _ _ _ 0 _).trans (walkEnd_nextBit ..)⟩
        · rw [decide_eq_true (Nat.not_lt.mp hshort)]
          obtain ⟨n, hn⟩ := ih ((s.nextBit.toggleMirrors
            (flaggedPixels (s.blockPixels b) r)).skipBits (s.blockPixels b).length)
          have hblocks : ∀ (u : State) (k : Nat), (u.skipBits k).blockPixels = u.blockPixels :=
            fun _ _ => rfl
          rw [State.bitsLeft_skipBits, State.toggleMirrors_bitsLeft, hr, hblocks,
            State.toggleMirrors_blockPixels, hpixels] at hn
          exact ⟨_, (walkEnd_append hn).trans (walkEnd_nextBit ..)⟩

/-! DELTA over a body of its length (R87, R88). -/

theorem State.inflated_bitsLeft (s : State) (toks : List Token) :
    (s.inflated toks).bitsLeft = bodyBits (expandTokens toks) := by
  rw [State.bitsLeft, s.inflated_work]
  refine List.ext_getElem? fun i => ?_
  rcases Nat.lt_or_ge i (8 * (expandTokens toks).length) with hi | hi
  · rw [s.inflated_scratchBit toks hi]
    simp [hi]
  · rw [List.getElem?_eq_none (by simpa using hi),
      List.getElem?_eq_none (by rwa [length_bodyBits])]

/-- DELTA over a body of its length ends as its trace says. -/
theorem exec_delta_of_tokens {s : State} {toks : List Token} {len : Half}
    (htoks : tokensAt s s.pos.toNat toks = true) (hlen : (expandTokens toks).length = len.toNat)
    (hcap : len.toNat ≤ s.cfg.scratchBytes) :
    ∃ n, exec (.delta len) s = (walkEnd (s.inflated toks)
      (s.deltaTrace (expandTokens toks)).1 (s.deltaTrace (expandTokens toks)).2 n).outcome := by
  obtain ⟨n, hn⟩ := toggleBlocks_eq (s.inflated toks).blocks (s.inflated toks)
  have hblocks : (s.inflated toks).blocks = s.blocks := by rw [s.inflated_eq]; rfl
  have hpixels : (s.inflated toks).blockPixels = s.blockPixels := by rw [s.inflated_eq]; rfl
  refine ⟨n, ?_⟩
  have hexec := frameRecord_of_tokens (fun u => toggleBlocks u.blocks u) htoks hlen hcap
  rw [hn, hblocks, hpixels, s.inflated_bitsLeft] at hexec
  exact hexec

theorem State.inflated_beforeOutside (s : State) (toks : List Token) :
    (s.inflated toks).beforeOutside = s.beforeOutside :=
  State.beforeOutside_congr (s.inflated_inGrid toks) (s.inflated_mirror toks)

theorem State.inflated_mirrorIndex (s : State) (toks : List Token) :
    (s.inflated toks).mirrorIndex = s.mirrorIndex := by
  rw [s.inflated_eq]
  rfl

/-- What the toggles after inflate make of a pixel, and of a byte that holds none of them. -/
theorem toggleMirrors_inflated {s : State} {ps : List (Nat × Nat)} (toks : List Token)
    (hps : ∀ p ∈ ps, s.inGrid (s.mirror p).1 (s.mirror p).2 = true) :
    (∀ mx my, mx < s.cfg.fbStride → ((s.inflated toks).toggleMirrors ps).pixel mx my =
      (s.pixel mx my ^^ decide ((ps.map s.mirror).count (mx, my) % 2 = 1))) ∧
    (∀ a, (∀ p ∈ ps, a ≠ s.mirrorIndex p) →
      ((s.inflated toks).toggleMirrors ps).fb.read a = s.fb.read a) := by
  refine ⟨fun mx my hmx => ?_, fun a ha => ?_⟩
  · rw [State.pixel_toggleMirrors (by rwa [s.inflated_mirror, s.inflated_inGrid])
      (by rwa [s.inflated_cfg]), s.inflated_pixel, s.inflated_mirror]
  · rw [State.read_toggleMirrors_ne (by rwa [s.inflated_mirrorIndex]), s.inflated_fb]

/-- The pixels a trace names are pixels of the walk, in its order. -/
theorem flaggedPixels_sublist (ps : List (Nat × Nat)) (r : List Bool) :
    (flaggedPixels ps r).Sublist ps := by
  induction ps generalizing r with
  | nil => exact List.nil_sublist _
  | cons p ps ih =>
    match r with
    | [] => exact List.nil_sublist _
    | false :: r => exact (ih r).cons p
    | true :: r => exact (ih r).cons_cons p

theorem toggleTrace_sublist (pixels : Nat × Nat → List (Nat × Nat)) (bs : List (Nat × Nat))
    (r : List Bool) : (toggleTrace pixels bs r).1.Sublist (bs.flatMap pixels) := by
  induction bs generalizing r with
  | nil => exact List.nil_sublist _
  | cons b bs ih =>
    match r with
    | [] => exact List.nil_sublist _
    | false :: r => exact (ih r).trans (List.sublist_append_right _ _)
    | true :: r =>
      have hflagged := flaggedPixels_sublist (pixels b) r
      simp only [toggleTrace, List.flatMap_cons]
      split_ifs
      · exact hflagged.trans (List.sublist_append_left _ _)
      · exact hflagged.append (ih _)

/-- The state a DELTA leaves that completed over the tokens `toks`, the mirrors of `tg` inverted and
`n` bits read. -/
def State.deltaDone (s : State) (toks : List Token) (tg : List (Nat × Nat)) (n : Nat) : State :=
  ((s.inflated toks).toggleMirrors tg).skipBits n

theorem State.deltaDone_eq (s : State) (toks : List Token) (tg : List (Nat × Nat)) (n : Nat) :
    s.deltaDone toks tg n = { s with
      pos := s.pos + BitVec.ofNat 32 (encodeTokens toks).length,
      scratch := (s.deltaDone toks tg n).scratch, fb := (s.deltaDone toks tg n).fb,
      work := (s.deltaDone toks tg n).work } := by
  rw [State.deltaDone, State.toggleMirrors_keeps, s.inflated_eq]
  rfl

theorem State.read_deltaDone (s : State) (toks : List Token) (tg : List (Nat × Nat)) (n a : Nat) :
    (s.deltaDone toks tg n).fb.read a = s.fb.read a ^^^ s.toggleMask tg a := by
  have hread := State.read_toggleMirrors tg (s.inflated toks) a
  rwa [State.toggleMask_congr (s.inflated_mirror toks) (s.inflated_mirrorIndex toks),
    s.inflated_fb] at hread

/-- DELTA over a body of its length whose flags suffice, every flagged mirror in the storage,
completes. -/
theorem exec_delta_completes {s : State} {toks : List Token} {len : Half} {tg : List (Nat × Nat)}
    (htoks : tokensAt s s.pos.toNat toks = true) (hlen : (expandTokens toks).length = len.toNat)
    (hcap : len.toNat ≤ s.cfg.scratchBytes) (htrace : s.deltaTrace (expandTokens toks) = (tg, true))
    (hin : s.beforeOutside tg = tg) : ∃ n, exec (.delta len) s = .next (s.deltaDone toks tg n) := by
  obtain ⟨n, hexec⟩ := exec_delta_of_tokens htoks hlen hcap
  rw [htrace, walkEnd, s.inflated_beforeOutside, if_pos hin, if_pos rfl] at hexec
  exact ⟨n, hexec⟩

/-- Conversely, a DELTA completes only so. -/
theorem exec_delta_eq_completed {s t : State} {len : Half}
    (h : exec (.delta len) s = .next t) (ht : t.faulted = false) :
    ∃ toks tg n, tokensAt s s.pos.toNat toks = true ∧ (expandTokens toks).length = len.toNat ∧
      len.toNat ≤ s.cfg.scratchBytes ∧ s.deltaTrace (expandTokens toks) = (tg, true) ∧
      s.beforeOutside tg = tg ∧ t = s.deltaDone toks tg n := by
  obtain ⟨v, hv, -⟩ | ⟨v, hv, ⟨-, hk⟩, -⟩ := inflate_spec len.toNat s
  · obtain ⟨toks, htoks, hlen, hcap, -⟩ := inflate_eq_ok hv
    obtain ⟨tg, enough, htrace⟩ : ∃ tg enough, s.deltaTrace (expandTokens toks) = (tg, enough) :=
      ⟨_, _, rfl⟩
    obtain ⟨n, hexec⟩ := exec_delta_of_tokens htoks hlen hcap
    rw [htrace, walkEnd, s.inflated_beforeOutside] at hexec
    have hnext := hexec.symm.trans h
    split_ifs at hnext with hin henough
    · obtain rfl : enough = true := henough
      exact ⟨toks, tg, n, htoks, hlen, hcap, htrace, hin, (Host.Outcome.next.inj hnext).symm⟩
    all_goals
      rw [← Host.Outcome.next.inj hnext] at ht
      cases ht
  · obtain rfl : v = t := Host.Outcome.next.inj ((frameRecord_raised _ hv).symm.trans h)
    rw [hk] at ht
    cases ht

/-- Settles O49: the walk completes, and no mirror is toggled twice. -/
theorem deltaTogglesFlaggedPixels : Obligations.DeltaTogglesFlaggedPixels := by
  intro s len toks tg hg htoks hlen hcap htrace hin
  obtain ⟨n, hexec⟩ := exec_delta_completes htoks hlen hcap htrace
    (State.beforeOutside_eq_self.mpr hin)
  obtain ⟨hpixel, hbyte⟩ := toggleMirrors_inflated toks hin
  have hsub : (s.deltaTrace (expandTokens toks)).1.Sublist s.visited := toggleTrace_sublist ..
  rw [htrace] at hsub
  have hnodup : (tg.map s.mirror).Nodup := State.nodup_map_mirror hg hsub
  obtain ⟨u, hu, -, -, hscratch, -⟩ := execDelta_spec len s
  cases hu.symm.trans hexec
  refine ⟨_, hexec, s.deltaDone_eq toks tg n, fun mx my hmx => ?_, hbyte, hscratch⟩
  refine (hpixel mx my hmx).trans ?_
  rw [List.Nodup.count hnodup]
  congr 2
  split_ifs with hmem <;> simp [hmem]

/-- Settles O50: the walk ends as `walkEnd` says, with what it flagged before its fault toggled. -/
theorem deltaUnderrunFaults : Obligations.DeltaUnderrunFaults := by
  intro s len toks tg done enough c htoks hlen hcap htrace hdone hc
  obtain ⟨n, hexec⟩ := exec_delta_of_tokens htoks hlen hcap
  obtain ⟨hpixel, hbyte⟩ := toggleMirrors_inflated (s := s) (ps := done) toks
    (hdone ▸ State.beforeOutside_inGrid)
  have hend : walkEnd (s.inflated toks) tg enough n =
      .raised (((s.inflated toks).toggleMirrors done).raise c) := by
    rw [walkEnd, s.inflated_beforeOutside, hdone]
    obtain ⟨rfl, hne⟩ | ⟨rfl, rfl, rfl⟩ := hc
    · rw [if_neg hne]
    · rw [if_pos rfl]
      rfl
  rw [htrace, hend] at hexec
  obtain ⟨u, hu, -, -, hscratch, -⟩ := execDelta_spec len s
  cases hu.symm.trans hexec
  refine ⟨_, hexec, ?_, hpixel, hbyte, hscratch⟩
  simp only [Res.state]
  rw [State.toggleMirrors_keeps, s.inflated_eq]
  rfl

theorem State.blocks_ne_nil {s : State} (hx : s.xb ≠ 0) (hy : s.yb ≠ 0) : s.blocks ≠ [] := by
  have hpos : ∀ b : Byte, b ≠ 0 → 0 < b.toNat := fun b hb =>
    Nat.pos_of_ne_zero fun h => hb (BitVec.eq_of_toNat_eq h)
  rw [← List.length_pos_iff, s.length_blocks]
  exact Nat.mul_pos (hpos _ hy) (hpos _ hx)

/-- Settles O51: an empty body has no bit for the first block flag. -/
theorem emptyDeltaUnderruns : Obligations.EmptyDeltaUnderruns := by
  intro s hx hy
  obtain ⟨b, bs, hblocks⟩ := List.exists_cons_of_ne_nil (State.blocks_ne_nil hx hy)
  obtain ⟨n, hexec⟩ := exec_delta_of_tokens (s := s) (toks := []) (len := 0) rfl rfl
    (Nat.zero_le _)
  rw [hexec, State.deltaTrace, hblocks]
  rfl

/-- The spaces and the working values replaced. -/
def State.withSpaces (scratch fb : Mem) (work : Work) (s : State) : State :=
  { s with scratch := scratch, fb := fb, work := work }

/-- The same DELTA over the same bytes completes again, whatever the spaces and the working values
hold. -/
theorem exec_delta_completes_again {s : State} {toks : List Token} {len : Half}
    {tg : List (Nat × Nat)} (htoks : tokensAt s s.pos.toNat toks = true)
    (hlen : (expandTokens toks).length = len.toNat) (hcap : len.toNat ≤ s.cfg.scratchBytes)
    (htrace : s.deltaTrace (expandTokens toks) = (tg, true)) (hin : s.beforeOutside tg = tg)
    (scratch fb : Mem) (work : Work) :
    ∃ n, exec (.delta len) (s.withSpaces scratch fb work) =
      .next ((s.withSpaces scratch fb work).deltaDone toks tg n) := by
  refine exec_delta_completes (s := s.withSpaces scratch fb work) ?_ hlen hcap htrace hin
  rwa [tokensAt_congr (s := s) (s' := s.withSpaces scratch fb work) rfl rfl]

/-- Settles O53: a DELTA that completed had a whole body whose flagged mirrors lie in the storage;
the same body read again names the same pixels, and an xor twice is none. -/
theorem deltaTwiceRestores : Obligations.DeltaTwiceRestores := by
  intro s t len hf h ht
  obtain ⟨toks, tg, n, htoks, hlen, hcap, htrace, hin, rfl⟩ := exec_delta_eq_completed h ht
  obtain ⟨scratch, fb, work, hback, hfb⟩ : ∃ scratch fb work,
      { s.deltaDone toks tg n with pos := s.pos } = s.withSpaces scratch fb work ∧
        fb = (s.deltaDone toks tg n).fb := by
    refine ⟨(s.deltaDone toks tg n).scratch, _, (s.deltaDone toks tg n).work, ?_, rfl⟩
    rw [s.deltaDone_eq]
    rfl
  obtain ⟨k, hexec⟩ := exec_delta_completes_again htoks hlen hcap htrace hin scratch fb work
  refine ⟨(s.withSpaces scratch fb work).deltaDone toks tg k, by rw [hback, hexec], ?_, ?_,
    fun a => ?_⟩
  · rw [State.deltaDone_eq]
    exact hf
  · rw [State.deltaDone_eq, s.deltaDone_eq toks tg n]
    rfl
  · have hmask : (s.withSpaces scratch fb work).toggleMask tg = s.toggleMask tg :=
      State.toggleMask_congr (s := s) (t := s.withSpaces scratch fb work) rfl rfl tg
    have hread : (s.withSpaces scratch fb work).fb.read a = s.fb.read a ^^^ s.toggleMask tg a :=
      (congrArg (Mem.read · a) hfb).trans (s.read_deltaDone toks tg n a)
    rw [State.read_deltaDone, hmask, hread, BitVec.xor_assoc, BitVec.xor_self, BitVec.xor_zero]

end Sys2Proof.Machine
